-- ==== Sys2Proof/Word.lean ====
section
/-! DEFINITION. The word types of the machine (spec/00_scope.md R6, R8): every register and memory value is
unsigned and wraps at its own width. -/

namespace Sys2Proof

/-- One byte: a general register, a timer, a memory cell (R6). -/
abbrev Byte := BitVec 8

/-- One 16-bit word: `I`, `PC`, a stack entry, an opcode (R6). -/
abbrev Word := BitVec 16

/-- One display row: bit `63 - c` is the pixel of column `c` (R33). -/
abbrev RowBits := BitVec 64

/-- The number of a general register, 0 to 15 (R20). -/
abbrev Reg := Fin 16

/-- `VF`, general register 15, which doubles as the flag (R23). -/
abbrev VF : Reg := 15

end Sys2Proof
end

