-- ==== Sys2Proof/WellFormed.lean ====
section
/-! DEFINITION. Which instructions are well formed. Register numbers, immediates and addresses have the range of
their fields by their types; the one operand that is a count, the row count `n` of DRW, is a 4-bit field
(spec/00_scope.md R11, spec/30_encoding.md R73: "`n` is a count of sprite rows 0 to 15"). -/

namespace Sys2Proof

/-- The check: every operand fits the field that encodes it. -/
def Instr.wellFormed (i : Instr) : Bool :=
  match i with
  | .drw _ _ n => decide (n < 16)
  | .cls => true
  | .ret => true
  | .jp _ => true
  | .call _ => true
  | .seImm _ _ => true
  | .sneImm _ _ => true
  | .seReg _ _ => true
  | .sneReg _ _ => true
  | .ldImm _ _ => true
  | .ldReg _ _ => true
  | .addImm _ _ => true
  | .orReg _ _ => true
  | .andReg _ _ => true
  | .xorReg _ _ => true
  | .addReg _ _ => true
  | .subReg _ _ => true
  | .shr _ _ => true
  | .subn _ _ => true
  | .shl _ _ => true
  | .ldI _ => true
  | .jpV0 _ => true
  | .rnd _ _ => true
  | .skp _ => true
  | .sknp _ => true
  | .ldVxDt _ => true
  | .ldDtVx _ => true
  | .ldStVx _ => true
  | .ldVxK _ => true
  | .addI _ => true
  | .ldF _ => true
  | .ldB _ => true
  | .storeRegs _ => true
  | .loadRegs _ => true

/-- Every operand fits the field that encodes it. -/
abbrev Instr.WellFormed (i : Instr) : Prop := i.wellFormed = true

end Sys2Proof
end

