-- ==== Sys2Proof/Decode.lean ====
section
/-! DEFINITION. Decoding and encoding (spec/30_encoding.md R70 to R78). Decoding is a match of the word against
(mask, match) pairs (R74), one pair per row of R75; a word no row selects is rejected as `UnsupportedOpcode` (R76,
R77). The bit patterns are the spec's choice D5. -/

namespace Sys2Proof

/-! ### Fields of an opcode (spec/00_scope.md R11) -/

/-- `op[15:12]`, the family. -/
def fieldFamily (op : Word) : BitVec 4 := op.extractLsb' 12 4

/-- `nnn = op[11:0]`. -/
def fieldNnn (op : Word) : BitVec 12 := op.extractLsb' 0 12

/-- `kk = op[7:0]`. -/
def fieldKk (op : Word) : Byte := op.extractLsb' 0 8

/-- A 4-bit field read as a register number. -/
def regOfNibble (b : BitVec 4) : Reg := ⟨b.toNat, b.isLt⟩

/-- `x = op[11:8]`. -/
def fieldX (op : Word) : Reg := regOfNibble (op.extractLsb' 8 4)

/-- `y = op[7:4]`. -/
def fieldY (op : Word) : Reg := regOfNibble (op.extractLsb' 4 4)

/-- `n = op[3:0]`, a count. -/
def fieldN (op : Word) : Nat := (op.extractLsb' 0 4).toNat

/-! ### The opcode map (R75) -/

/-- One row of R75: the form is selected when `op & mask = pattern`, and `build` reads its operands. -/
structure OpRow where
  mnemonic : String
  mask : Word
  pattern : Word
  build : Word → Instr

/-- The two words of family 0 that are instructions (R75 rows 1 and 2). -/
def rowsExact : List OpRow :=
  [ ⟨"CLS", 0xFFFF, 0x00E0, fun _ => .cls⟩,
    ⟨"RET", 0xFFFF, 0x00EE, fun _ => .ret⟩ ]

/-- The rows whose family nibble alone is fixed, with an address operand (format A of R72). -/
def rowsAddress : List OpRow :=
  [ ⟨"JP_nnn", 0xF000, 0x1000, fun op => .jp (fieldNnn op)⟩,
    ⟨"CALL_nnn", 0xF000, 0x2000, fun op => .call (fieldNnn op)⟩,
    ⟨"LD_I__nnn", 0xF000, 0xA000, fun op => .ldI (fieldNnn op)⟩,
    ⟨"JP_V0__nnn", 0xF000, 0xB000, fun op => .jpV0 (fieldNnn op)⟩ ]

/-- The rows with a register and an immediate (format XK of R72). -/
def rowsImmediate : List OpRow :=
  [ ⟨"SE_Vx__kk", 0xF000, 0x3000, fun op => .seImm (fieldX op) (fieldKk op)⟩,
    ⟨"SNE_Vx__kk", 0xF000, 0x4000, fun op => .sneImm (fieldX op) (fieldKk op)⟩,
    ⟨"LD_Vx__kk", 0xF000, 0x6000, fun op => .ldImm (fieldX op) (fieldKk op)⟩,
    ⟨"ADD_Vx__kk", 0xF000, 0x7000, fun op => .addImm (fieldX op) (fieldKk op)⟩,
    ⟨"RND_Vx__kk", 0xF000, 0xC000, fun op => .rnd (fieldX op) (fieldKk op)⟩ ]

/-- The rows with two registers (formats XY and XYN of R72). -/
def rowsRegister : List OpRow :=
  [ ⟨"SE_Vx__Vy", 0xF00F, 0x5000, fun op => .seReg (fieldX op) (fieldY op)⟩,
    ⟨"SNE_Vx__Vy", 0xF00F, 0x9000, fun op => .sneReg (fieldX op) (fieldY op)⟩,
    ⟨"LD_Vx__Vy", 0xF00F, 0x8000, fun op => .ldReg (fieldX op) (fieldY op)⟩,
    ⟨"OR_Vx__Vy", 0xF00F, 0x8001, fun op => .orReg (fieldX op) (fieldY op)⟩,
    ⟨"AND_Vx__Vy", 0xF00F, 0x8002, fun op => .andReg (fieldX op) (fieldY op)⟩,
    ⟨"XOR_Vx__Vy", 0xF00F, 0x8003, fun op => .xorReg (fieldX op) (fieldY op)⟩,
    ⟨"ADD_Vx__Vy", 0xF00F, 0x8004, fun op => .addReg (fieldX op) (fieldY op)⟩,
    ⟨"SUB_Vx__Vy", 0xF00F, 0x8005, fun op => .subReg (fieldX op) (fieldY op)⟩,
    ⟨"SHR_Vx", 0xF00F, 0x8006, fun op => .shr (fieldX op) (fieldY op)⟩,
    ⟨"SUBN_Vx__Vy", 0xF00F, 0x8007, fun op => .subn (fieldX op) (fieldY op)⟩,
    ⟨"SHL_Vx", 0xF00F, 0x800E, fun op => .shl (fieldX op) (fieldY op)⟩,
    ⟨"DRW_Vx__Vy__n", 0xF000, 0xD000, fun op => .drw (fieldX op) (fieldY op) (fieldN op)⟩ ]

/-- The rows with one register and a fixed low byte (format X of R72). -/
def rowsOneRegister : List OpRow :=
  [ ⟨"SKP_Vx", 0xF0FF, 0xE09E, fun op => .skp (fieldX op)⟩,
    ⟨"SKNP_Vx", 0xF0FF, 0xE0A1, fun op => .sknp (fieldX op)⟩,
    ⟨"LD_Vx__DT", 0xF0FF, 0xF007, fun op => .ldVxDt (fieldX op)⟩,
    ⟨"LD_DT__Vx", 0xF0FF, 0xF015, fun op => .ldDtVx (fieldX op)⟩,
    ⟨"LD_ST__Vx", 0xF0FF, 0xF018, fun op => .ldStVx (fieldX op)⟩,
    ⟨"LD_Vx__K", 0xF0FF, 0xF00A, fun op => .ldVxK (fieldX op)⟩,
    ⟨"ADD_I__Vx", 0xF0FF, 0xF01E, fun op => .addI (fieldX op)⟩,
    ⟨"LD_F__Vx", 0xF0FF, 0xF029, fun op => .ldF (fieldX op)⟩,
    ⟨"LD_B__Vx", 0xF0FF, 0xF033, fun op => .ldB (fieldX op)⟩,
    ⟨"LD__I___Vx", 0xF0FF, 0xF055, fun op => .storeRegs (fieldX op)⟩,
    ⟨"LD_Vx___I", 0xF0FF, 0xF065, fun op => .loadRegs (fieldX op)⟩ ]

/-- The whole opcode map (R75). No two rows overlap, so the order does not matter (R74); the two exact words still
stand first, as the source asks. -/
def opcodeRows : List OpRow :=
  rowsExact ++ rowsAddress ++ rowsImmediate ++ rowsRegister ++ rowsOneRegister

/-- Form `f` is selected when `op & mask_f = match_f` (R74). -/
def OpRow.selects (r : OpRow) (op : Word) : Bool := (op &&& r.mask) == r.pattern

/-- The instruction a 16-bit word stands for, or none where the word is illegal (R74, R76). -/
def decodeWord (op : Word) : Option Instr :=
  (opcodeRows.find? (fun r => r.selects op)).map (fun r => r.build op)

/-! ### From bytes (R50, R70) -/

/-- Why bytes are no instruction. -/
inductive DecodeError where
  /-- Fewer than the two bytes of an instruction (R70). -/
  | truncated
  /-- A word that no row of R75 selects (R76). -/
  | unsupportedOpcode (op : Word)
deriving DecidableEq, Repr

/-- The opcode of two consecutive bytes: the byte at the lower address is the high byte (R50). -/
def wordOfBytes (hi lo : Byte) : Word := hi ++ lo

/-- The high byte of a word, stored at the lower address (R50). -/
def highByte (op : Word) : Byte := op.extractLsb' 8 8

/-- The low byte of a word, stored at the higher address (R50). -/
def lowByte (op : Word) : Byte := op.extractLsb' 0 8

/-- Read one instruction from the front of a byte string; every instruction is two bytes (R70, R79). -/
def decode : List Byte → Except DecodeError (Instr × List Byte)
  | hi :: lo :: rest =>
    match decodeWord (wordOfBytes hi lo) with
    | some i => .ok (i, rest)
    | none => .error (.unsupportedOpcode (wordOfBytes hi lo))
  | _ => .error .truncated

/-- The instruction the decoder reads from a word numbered as spec/opcode_table.json numbers it. -/
def decodeTableWord (nbits w : Nat) : Option Instr :=
  let op : Word := BitVec.ofNat 16 (w % 2 ^ nbits)
  match decode [highByte op, lowByte op] with
  | .ok (i, _) => some i
  | .error _ => none

/-! ### Encoding (R72, R75) -/

/-- A register number as its 4-bit field. -/
def nibbleOfReg (r : Reg) : BitVec 4 := BitVec.ofNat 4 r.val

/-- Format A: family and address. -/
def packA (fam : BitVec 4) (nnn : BitVec 12) : Word := fam ++ nnn

/-- Format XK: family, register, immediate. -/
def packXK (fam : BitVec 4) (x : Reg) (kk : Byte) : Word := fam ++ (nibbleOfReg x ++ kk)

/-- Formats XY and XYN: family, two registers, low nibble. -/
def packXY (fam : BitVec 4) (x y : Reg) (low : BitVec 4) : Word :=
  fam ++ (nibbleOfReg x ++ (nibbleOfReg y ++ low))

/-- The word of an instruction (R75). -/
def encode : Instr → Word
  | .cls => 0x00E0
  | .ret => 0x00EE
  | .jp nnn => packA 0x1 nnn
  | .call nnn => packA 0x2 nnn
  | .seImm x kk => packXK 0x3 x kk
  | .sneImm x kk => packXK 0x4 x kk
  | .seReg x y => packXY 0x5 x y 0x0
  | .sneReg x y => packXY 0x9 x y 0x0
  | .ldImm x kk => packXK 0x6 x kk
  | .ldReg x y => packXY 0x8 x y 0x0
  | .addImm x kk => packXK 0x7 x kk
  | .orReg x y => packXY 0x8 x y 0x1
  | .andReg x y => packXY 0x8 x y 0x2
  | .xorReg x y => packXY 0x8 x y 0x3
  | .addReg x y => packXY 0x8 x y 0x4
  | .subReg x y => packXY 0x8 x y 0x5
  | .shr x y => packXY 0x8 x y 0x6
  | .subn x y => packXY 0x8 x y 0x7
  | .shl x y => packXY 0x8 x y 0xE
  | .ldI nnn => packA 0xA nnn
  | .jpV0 nnn => packA 0xB nnn
  | .rnd x kk => packXK 0xC x kk
  | .drw x y n => packXY 0xD x y (BitVec.ofNat 4 n)
  | .skp x => packXK 0xE x 0x9E
  | .sknp x => packXK 0xE x 0xA1
  | .ldVxDt x => packXK 0xF x 0x07
  | .ldDtVx x => packXK 0xF x 0x15
  | .ldStVx x => packXK 0xF x 0x18
  | .ldVxK x => packXK 0xF x 0x0A
  | .addI x => packXK 0xF x 0x1E
  | .ldF x => packXK 0xF x 0x29
  | .ldB x => packXK 0xF x 0x33
  | .storeRegs x => packXK 0xF x 0x55
  | .loadRegs x => packXK 0xF x 0x65

/-- The two bytes of an instruction, lowest address first (R50, R70). -/
def encodeBytes (i : Instr) : List Byte := [highByte (encode i), lowByte (encode i)]

end Sys2Proof
end

