-- ==== Sys2Proof/Config.lean ====
section
/-! DEFINITION. The configuration: the sizes the spec fixes (spec/00_scope.md R6) and the parameters it names without
a value (R7). A parameter is an opaque constant: nothing can be proved of it beyond the constraint R7 gives.
Machine/Font.lean holds the default table that R58 names for `FONT`, as a premise a claim may take. -/

namespace Sys2Proof.Config

/-- `MEM_SIZE` (R6): addresses 0 to 4095. -/
def memSize : Nat := 4096

/-- `LOAD_OFFSET` (R6): the first address of the loaded ROM, and the reset `PC`. -/
def loadOffset : Nat := 0x200

/-- `ROM_CAPACITY` (R6): a ROM is accepted only if its length is strictly less than this. -/
def romCapacity : Nat := memSize - loadOffset

/-- FREE VALUE (log entry 7): `FONT`, the 80 bytes of the 16 glyphs (R7, R58, D9); the glyph of digit `d` stands at `5*d`. -/
opaque font : Vector Byte 80

/-- FREE VALUE (log entry 3): how many cycles beyond the first a frame has. -/
opaque extraCycles : Nat

/-- `CYCLES_PER_FRAME` (R7, D10): any natural number, at least 1. -/
def cyclesPerFrame : Nat := extraCycles + 1

/-- FREE VALUE (log entry 1): the answer of the `k`-th draw of the random generator, `draw8()` of R131.
No relation between two draws can be proved (R37, D11). -/
opaque draw8 : Nat → Byte

/-- FREE VALUE (log entry 2): the place in the supply of draws that RESET leaves, from `SEED` and from the place
before it. R37 says only that RESET initialises the generator from `SEED`. -/
opaque seedRng : Nat → Nat → Nat

/-- FREE VALUE (log entry 5): `COLOR_ON`, the 24-bit colour of a lit pixel (R7, D12). -/
opaque colorOn : BitVec 24

/-- FREE VALUE (log entry 5): `COLOR_OFF`, the 24-bit colour of a dark pixel (R7, D12). -/
opaque colorOff : BitVec 24

/-- FREE VALUE (log entry 6): samples of a frame beyond the first. -/
opaque extraSamples : Nat

/-- `SAMPLES_PER_FRAME` (R7, D13): any positive natural number. -/
def samplesPerFrame : Nat := extraSamples + 1

/-- FREE VALUE (log entry 6): one less than the sampling rate. -/
opaque sampleRatePred : Nat

/-- `SAMPLE_RATE` (R7, D13): any positive natural number. No rule of the spec reads it: it only explains
`SAMPLES_PER_FRAME` and `TONE_BLOCK`. -/
def sampleRate : Nat := sampleRatePred + 1

/-- FREE VALUE (log entry 6): sample `k` of `TONE_BLOCK`, the block of a frame whose gate is 1 (R7, R183, D13),
a signed 16-bit value in two's complement. -/
opaque toneSample : Nat → BitVec 16

end Sys2Proof.Config
end

