-- ==== Sys2Proof/Machine/State.lean ====
section
/-! DEFINITION. The state of the machine as plain data (spec/10_state.md R20 to R41), its faults
(spec/60_exceptions.md R200), the host's operations and their results (spec/45_frame_driver_outputs.md R172), and the
state after reset (R40). -/

namespace Sys2Proof.Machine

/-- The faults of R200, each with its information word. A fault raised in a cycle is latched in `State.fault` and
returned to the host; a machine whose latch is set answers its latched fault from `step` once the host has no operation
left to perform (R212: it runs no cycle). All of them are SAFE: the spec itself ends the program there. -/
inductive Fault where
  /-- Code 1, raised by LOAD when the ROM has 3584 bytes or more (R174); only ever the result of LOAD, never
  latched and never the outcome of a step (R201). Safe. -/
  | loadError
  /-- Code 2, raised by `Fetch()` when `PC = 4096` exactly (R53). Safe. -/
  | fetchFault (pc : Word)
  /-- Code 3, raised by RET when `SP = 0` (R100). Safe. -/
  | stackUnderflow
  /-- Code 4, raised by CALL when `SP = 16` (R102). Safe. -/
  | stackOverflow
  /-- Code 5, raised by a cycle whose word no row of the opcode map selects (R76). Safe. -/
  | unsupportedOpcode (op : Word)
  /-- Code 6, raised by `Fetch()` at `PC = 4095` or above 4096 (R53) and by DRW, LD B, LD [I] and LD Vx,[I] when an
  address above 4095 would be accessed (R56); it holds the first such address. Safe. -/
  | memRangeFault (addr : Nat)
  /-- Code 7, raised by SKP and SKNP when `V[x] > 15` (R160, R161). Safe. -/
  | keyRangeFault (k : Byte)
deriving DecidableEq, Repr

/-- Why an instruction is refused. -/
inductive Refusal where
  /-- No meaning for the instruction in this model. No arm of `exec` answers it: every form has its meaning. Safe. -/
  | notModelled (mnemonic : String)
deriving DecidableEq, Repr

/-- Where STEP_FRAME is: the model's own field (log entry 4). -/
inductive Phase where
  /-- Between host operations: the core does nothing and holds its state (R222). -/
  | between
  /-- Inside STEP_FRAME, with `left` cycles still to run (R177). -/
  | cycles (left : Nat)
deriving DecidableEq, Repr

/-- An operation of the host (R172). -/
inductive HostOp where
  /-- RESET with a seed for the random generator (R173). -/
  | reset (seed : Nat)
  /-- LOAD of a ROM (R174, R175). -/
  | load (rom : List Byte)
  /-- STEP_FRAME with the 16 key bits (R176). -/
  | stepFrame (keys : Vector Bool 16)
deriving DecidableEq, Repr

/-- What a finished host operation returned (R172). RESET has no output. -/
inductive Reply where
  /-- LOAD succeeded (R175). -/
  | loadOk
  /-- STEP_FRAME succeeded, with the pixel buffer (R181) and the audio block (R182) of the frame. -/
  | frameOk (pixels : Vector (BitVec 24) 2048) (audio : Vector (BitVec 16) (2 * Config.samplesPerFrame))
  /-- LOAD or STEP_FRAME returned a fault (R174, R178, R212). -/
  | failed (f : Fault)
deriving DecidableEq, Repr

/-- Memory: (address, byte) pairs, addresses strictly rising, no entry equal to what an unlisted address reads as.
What an unlisted address reads as is `initialByte` of Machine/Ops.lean. -/
abbrev Memory := List Host.Cell

/-- Everything the spec gives the machine, and three fields of the model's own (log entries 1 and 4). -/
structure State where
  /-- `V[0]` to `V[15]` (R20). -/
  v : Vector Byte 16
  /-- `I`, all 16 bits held and used (R27). -/
  i : Word
  /-- `PC` (R22). -/
  pc : Word
  /-- `SP`, the count of valid stack entries, 0 to 16 (R30). -/
  sp : Fin 17
  /-- `STACK[0]` to `STACK[15]` (R31). -/
  stack : Vector Word 16
  /-- `DT`, the delay timer (R28). -/
  dt : Byte
  /-- `ST`, the sound timer (R29). -/
  st : Byte
  /-- `KEY[0]` to `KEY[15]`, the keypad snapshot (R32). -/
  key : Vector Bool 16
  /-- `DISP[0]` to `DISP[31]` (R33). -/
  disp : Vector RowBits 32
  /-- `MEM[0]` to `MEM[4095]` (R34). -/
  mem : Memory
  /-- `SND_GATE` (R35). -/
  sndGate : Bool
  /-- `FAULT` (R36). -/
  fault : Option Fault
  /-- `RNG` (R37), as the number of the next draw of `Config.draw8` (log entry 1). -/
  rng : Nat
  /-- The model's own: where STEP_FRAME is (log entry 4). -/
  phase : Phase
  /-- The model's own: the operations the host still performs, first one first (log entry 4). -/
  pending : List HostOp
  /-- The model's own: what the last finished host operation returned (log entry 4). -/
  reply : Option Reply
deriving DecidableEq, Repr

/-- The machine right after RESET (R40): `PC = 0x200`, the font in memory (nothing listed, see `initialByte`), the
rest 0; the host has asked for nothing yet. -/
def State.reset : State where
  v := Vector.replicate 16 0
  i := 0
  pc := 0x200
  sp := 0
  stack := Vector.replicate 16 0
  dt := 0
  st := 0
  key := Vector.replicate 16 false
  disp := Vector.replicate 32 0
  mem := []
  sndGate := false
  fault := none
  rng := 0
  phase := .between
  pending := []
  reply := none

end Sys2Proof.Machine
end

