-- ==== Sys2Proof/Machine/Ops.lean ====
section
/-! DEFINITION. The named operations over memory, registers and the private stack, the fetch, and raising a fault
(spec/20_memory.md, spec/10_state.md, spec/60_exceptions.md R208). Every read and write of the machine's state goes
through these. -/

namespace Sys2Proof.Machine

/-! ### Memory (R34, R55, R57) -/

/-- What an address that memory does not list reads as: the reset contents (R40, R57), `FONT` at 0 to 79 (R58) and
0 elsewhere. -/
def initialByte (a : Nat) : Byte := if h : a < 80 then Config.font.get ⟨a, h⟩ else 0

/-- The byte at an address. -/
def Memory.readByte : Memory → Nat → Byte
  | [], a => initialByte a
  | (a', b') :: m, a => if a = a' then b' else Memory.readByte m a

/-- Put a byte in front of cells of higher addresses, unless it is what the address reads as unlisted. -/
def Memory.consCell (a : Nat) (b : Byte) (m : Memory) : Memory :=
  if b = initialByte a then m else (a, b) :: m

/-- Write one byte, keeping the canonical form. -/
def Memory.writeByte : Memory → Nat → Byte → Memory
  | [], a, b => Memory.consCell a b []
  | (a', b') :: m, a, b =>
    if a < a' then Memory.consCell a b ((a', b') :: m)
    else if a = a' then Memory.consCell a b m
    else (a', b') :: Memory.writeByte m a b

/-- Write bytes at ascending addresses (R51, R55). -/
def Memory.writeBytes : Memory → Nat → List Byte → Memory
  | m, _, [] => m
  | m, a, b :: bs => Memory.writeBytes (Memory.writeByte m a b) (a + 1) bs

/-- The `n` bytes from an address upward (R51, R55). -/
def Memory.readBytes (m : Memory) (a n : Nat) : List Byte :=
  (List.range n).map (fun k => Memory.readByte m (a + k))

/-- The canonical form from address `lo` up: addresses rise strictly and exist, and no entry equals what its address
reads as unlisted. -/
def Memory.wfFrom : Nat → Memory → Bool
  | _, [] => true
  | lo, (a, b) :: m =>
    decide (lo ≤ a) && decide (a < Config.memSize) && decide (b ≠ initialByte a) && Memory.wfFrom (a + 1) m

/-- The canonical form of memory. -/
def Memory.wf (m : Memory) : Bool := Memory.wfFrom 0 m

/-- The byte of memory at an address (R34). -/
def State.byteAt (s : State) (a : Nat) : Byte := Memory.readByte s.mem a

/-- Store bytes at ascending addresses; the caller has checked the range (R56). -/
def State.storeBytes (s : State) (a : Nat) (bs : List Byte) : State :=
  { s with mem := Memory.writeBytes s.mem a bs }

/-! ### Registers (R20, R27 to R29) -/

/-- Read `V[x]`. -/
def State.reg (s : State) (x : Reg) : Byte := s.v.get x

/-- Write `V[x]`; every register is an ordinary one, `V0` and `VF` included (R20, R25). -/
def State.setReg (s : State) (x : Reg) (b : Byte) : State := { s with v := s.v.set x.val b x.isLt }

/-- Write `I`. -/
def State.setI (s : State) (w : Word) : State := { s with i := w }

/-- Write `PC`. -/
def State.setPc (s : State) (w : Word) : State := { s with pc := w }

/-- Write `DT`. -/
def State.setDt (s : State) (b : Byte) : State := { s with dt := b }

/-- Write `ST`. -/
def State.setSt (s : State) (b : Byte) : State := { s with st := b }

/-- Write the display. -/
def State.setDisp (s : State) (d : Vector RowBits 32) : State := { s with disp := d }

/-- Write the whole register file. -/
def State.setRegs (s : State) (v : Vector Byte 16) : State := { s with v := v }

/-- Write `SP` and the stack (R30, R31). -/
def State.setStack (s : State) (sp : Fin 17) (stack : Vector Word 16) : State := { s with sp := sp, stack := stack }

/-- Set where STEP_FRAME is (log entry 4). -/
def State.setPhase (s : State) (p : Phase) : State := { s with phase := p }

/-- Set the operations the host still performs (log entry 4). -/
def State.setPending (s : State) (ops : List HostOp) : State := { s with pending := ops }

/-- Set what the last finished host operation returned (log entry 4). -/
def State.setReply (s : State) (r : Option Reply) : State := { s with reply := r }

/-- Skip the next instruction, which is always 2 bytes, when the condition holds (R22, R103). -/
def State.skipIf (s : State) (c : Bool) : State := if c then s.setPc (s.pc + 2) else s

/-- `draw8()` and the advance of the generator (R131). -/
def State.draw (s : State) : Byte × State := (Config.draw8 s.rng, { s with rng := s.rng + 1 })

/-! ### Faults (R171, R208) -/

/-- `raise X(info)` in a cycle (R208): latch the fault, end the frame without its remaining cycles, timer decay or
outputs, and return the fault to the host. What the failing cycle has done already stays (R171). -/
def State.raise (s : State) (f : Fault) : State :=
  { s with fault := some f, phase := .between, reply := some (.failed f) }

/-- The numeric code of a fault (R200). -/
def Fault.code : Fault → Nat
  | .loadError => 1
  | .fetchFault _ => 2
  | .stackUnderflow => 3
  | .stackOverflow => 4
  | .unsupportedOpcode _ => 5
  | .memRangeFault _ => 6
  | .keyRangeFault _ => 7

/-- The information word of a fault, where it has one (R200). -/
def Fault.info : Fault → Option Nat
  | .loadError => none
  | .fetchFault pc => some pc.toNat
  | .stackUnderflow => none
  | .stackOverflow => none
  | .unsupportedOpcode op => some op.toNat
  | .memRangeFault a => some a
  | .keyRangeFault k => some k.toNat

/-! ### The private stack (R30, R31) -/

/-- Push a return address (R102): `STACK[SP] <- w; SP <- SP + 1`; none when the stack is full. -/
def State.push (s : State) (w : Word) : Option State :=
  if h : s.sp.val < 16 then
    some (s.setStack ⟨s.sp.val + 1, by omega⟩ (s.stack.set s.sp.val w h))
  else none

/-- Pop a return address (R100): `SP <- SP - 1`, the entry `STACK[SP]`, which keeps its value (R31); none when the
stack is empty. -/
def State.pop (s : State) : Option (Word × State) :=
  if h : s.sp.val = 0 then none
  else some (s.stack[s.sp.val - 1]'(by omega), s.setStack ⟨s.sp.val - 1, by omega⟩ s.stack)

/-! ### Fetch (R50, R52, R53) -/

/-- `Fetch()`: the big-endian word at `PC`, and the state with `PC` advanced by 2 (R52); at `PC = 4096` exactly a
`FetchFault`, at 4095 or above 4096 a `MemRangeFault` at the first address that does not exist, the state
unchanged (R53). -/
def State.fetch (s : State) : Except Fault (Word × State) :=
  if s.pc.toNat + 2 ≤ Config.memSize then
    .ok (wordOfBytes (s.byteAt s.pc.toNat) (s.byteAt (s.pc.toNat + 1)), s.setPc (s.pc + 2))
  else if s.pc.toNat = Config.memSize then .error (.fetchFault s.pc)
  else .error (.memRangeFault (max s.pc.toNat Config.memSize))

end Sys2Proof.Machine
end

