-- ==== Sys2Proof/Machine/Flags.lean ====
section
/-! DEFINITION. The flag computations (spec/10_state.md R23, spec/41_alu.md R126 to R130, spec/43_display.md R154) and
the one operation that writes a result and then the flag (R24). -/

namespace Sys2Proof.Machine

/-- A flag as the byte 0 or 1 (R23). -/
def flagByte (c : Bool) : Byte := if c then 1 else 0

/-- Carry of `V[x] + V[y] = r`: the 8-bit result is less than `V[y]` (R126). -/
def carryOut (r b : Byte) : Bool := decide (r.toNat < b.toNat)

/-- NOT borrow of `a - b` (R127, R129). -/
def notBorrow (a b : Byte) : Bool := decide (b.toNat ≤ a.toNat)

/-- The bit a right shift moves out (R128). -/
def shiftedOutRight (a : Byte) : Bool := a.getLsbD 0

/-- The bit a left shift moves out (R130). -/
def shiftedOutLeft (a : Byte) : Bool := a.getLsbD 7

/-- A row collides when a lit pixel is toggled (R154). -/
def collides (row mask : RowBits) : Bool := decide (row &&& mask ≠ 0)

/-- Write the result to `V[x]` first and the flag to `VF` last (R24). -/
def State.setRegFlag (s : State) (x : Reg) (r : Byte) (c : Bool) : State := (s.setReg x r).setReg VF (flagByte c)

end Sys2Proof.Machine
end

