-- ==== Sys2Proof/Machine/Operands.lean ====
section
/-! DEFINITION. The operand forms beyond a register or an immediate: the data address `I + r` with its range check
(spec/42_index_memory.md R139, spec/20_memory.md R56), the register range `V[0]` to `V[x]` (R144, R145), decimal digits
(R143), the glyph address (R142), the held keys (spec/44_keypad_timers.md R160 to R163) and the placed sprite row
(spec/43_display.md R152, R153). -/

namespace Sys2Proof.Machine

/-- The base of every data access: all 16 bits of `I`, as a mathematical integer (R139). -/
def State.dataBase (s : State) : Nat := s.i.toNat

/-- The fault of a data access to `len` bytes at `I`, tested before any write (R56): none when it touches no address
or when its highest address is at most 4095. -/
def State.rangeFault (s : State) (len : Nat) : Option Fault :=
  if len = 0 ∨ s.dataBase + len ≤ Config.memSize then none
  else some (.memRangeFault (max s.dataBase Config.memSize))

/-- Do `k` unless the `len` bytes at `I` leave memory, when the whole instruction raises its fault and does nothing
else (R56). -/
def State.inRange (s : State) (len : Nat) (k : State) : Host.Outcome State Fault Refusal :=
  match s.rangeFault len with
  | none => .next k
  | some f => .next (s.raise f)

/-- How many registers `V[0]` to `V[x]` are: the range is inclusive (R144). -/
def rangeLength (x : Reg) : Nat := x.val + 1

/-- The contents of `V[0]` to `V[x]` in order (R144). -/
def State.regsUpTo (s : State) (x : Reg) : List Byte := s.v.toList.take (rangeLength x)

/-- The register file after loading `V[0]` to `V[x]` from the bytes at `I` (R145). -/
def State.loadedRegs (s : State) (x : Reg) : Vector Byte 16 :=
  Vector.ofFn (fun j : Reg => if j ≤ x then s.byteAt (s.dataBase + j.val) else s.reg j)

/-- The three decimal digits of a byte: hundreds, tens, ones (R143). -/
def decimalDigits (b : Byte) : List Byte := [b / 100, (b / 10) % 10, b % 10]

/-- The address of the 5-byte glyph of a value: all 8 bits times 5, as 16 bits (R142). -/
def glyphAddress (b : Byte) : Word := b.setWidth 16 * 5

/-- Whether key `k` is held in the snapshot; none when there is no such key (R160). -/
def State.keyHeld (s : State) (k : Byte) : Option Bool := s.key[k.toNat]?

/-- The lowest held key, in index order (R163). -/
def State.lowestKey (s : State) : Option (Fin 16) := (List.finRange 16).find? (fun j => s.key.get j)

/-- A sprite byte as a row mask with its leftmost pixel at column `cx` mod 64, wrapping at the right edge (R152). -/
def placedRow (b : Byte) (cx : Nat) : RowBits := ((b.setWidth 64) <<< 56).rotateRight (cx % 64)

/-- The display row of sprite row `r` drawn at height `cy`, wrapping at the bottom (R153). -/
def targetRow (cy r : Nat) : Fin 32 := ⟨(cy + r) % 32, Nat.mod_lt _ (by omega)⟩

end Sys2Proof.Machine
end

