-- ==== Sys2Proof/Machine/Alu.lean ====
section
/-! DEFINITION. Register load, arithmetic, logic, shift and random (spec/41_alu.md R119 to R131). Operands are read
before any write; the six flag forms write the result first and the flag last (R24, R119). -/

namespace Sys2Proof.Machine

/-- LD Vx, kk (R120). -/
def execLdImm (x : Reg) (kk : Byte) (s : State) : Host.Outcome State Fault Refusal := .next (s.setReg x kk)

/-- ADD Vx, kk (R121): wraps, no flag. -/
def execAddImm (x : Reg) (kk : Byte) (s : State) : Host.Outcome State Fault Refusal :=
  .next (s.setReg x (s.reg x + kk))

/-- LD Vx, Vy (R122). -/
def execLdReg (x y : Reg) (s : State) : Host.Outcome State Fault Refusal := .next (s.setReg x (s.reg y))

/-- OR Vx, Vy (R123): no flag. -/
def execOrReg (x y : Reg) (s : State) : Host.Outcome State Fault Refusal := .next (s.setReg x (s.reg x ||| s.reg y))

/-- AND Vx, Vy (R124): no flag. -/
def execAndReg (x y : Reg) (s : State) : Host.Outcome State Fault Refusal := .next (s.setReg x (s.reg x &&& s.reg y))

/-- XOR Vx, Vy (R125): no flag. -/
def execXorReg (x y : Reg) (s : State) : Host.Outcome State Fault Refusal := .next (s.setReg x (s.reg x ^^^ s.reg y))

/-- ADD Vx, Vy (R126). -/
def execAddReg (x y : Reg) (s : State) : Host.Outcome State Fault Refusal :=
  .next (s.setRegFlag x (s.reg x + s.reg y) (carryOut (s.reg x + s.reg y) (s.reg y)))

/-- SUB Vx, Vy (R127). -/
def execSubReg (x y : Reg) (s : State) : Host.Outcome State Fault Refusal :=
  .next (s.setRegFlag x (s.reg x - s.reg y) (notBorrow (s.reg x) (s.reg y)))

/-- SHR Vx (R128): `V[x]` in place; the `y` field is not used (R78). -/
def execShr (x : Reg) (s : State) : Host.Outcome State Fault Refusal :=
  .next (s.setRegFlag x (s.reg x >>> 1) (shiftedOutRight (s.reg x)))

/-- SUBN Vx, Vy (R129): `V[x] <- V[y] - V[x]`. -/
def execSubn (x y : Reg) (s : State) : Host.Outcome State Fault Refusal :=
  .next (s.setRegFlag x (s.reg y - s.reg x) (notBorrow (s.reg y) (s.reg x)))

/-- SHL Vx (R130): `V[x]` in place; the `y` field is not used (R78). -/
def execShl (x : Reg) (s : State) : Host.Outcome State Fault Refusal :=
  .next (s.setRegFlag x (s.reg x <<< 1) (shiftedOutLeft (s.reg x)))

/-- RND Vx, kk (R131): one draw, under the mask `kk`. -/
def execRnd (x : Reg) (kk : Byte) (s : State) : Host.Outcome State Fault Refusal :=
  .next (s.draw.2.setReg x (s.draw.1 &&& kk))

end Sys2Proof.Machine
end

