-- ==== Sys2Proof/Machine/Control.lean ====
section
/-! DEFINITION. Control transfer (spec/40_control_flow.md R100 to R108). `PC` already holds the address of the
instruction plus 2; no target is checked here, only by the next fetch (R108). -/

namespace Sys2Proof.Machine

/-- RET (R100): pop into `PC`, or `StackUnderflow` when `SP = 0`. -/
def execRet (s : State) : Host.Outcome State Fault Refusal :=
  match s.pop with
  | none => .next (s.raise .stackUnderflow)
  | some (w, t) => .next (t.setPc w)

/-- JP nnn (R101). -/
def execJp (nnn : BitVec 12) (s : State) : Host.Outcome State Fault Refusal := .next (s.setPc (nnn.setWidth 16))

/-- CALL nnn (R102): push the address of the next instruction, or `StackOverflow` when `SP = 16`. -/
def execCall (nnn : BitVec 12) (s : State) : Host.Outcome State Fault Refusal :=
  match s.push s.pc with
  | none => .next (s.raise .stackOverflow)
  | some t => .next (t.setPc (nnn.setWidth 16))

/-- SE Vx, kk (R103). -/
def execSeImm (x : Reg) (kk : Byte) (s : State) : Host.Outcome State Fault Refusal :=
  .next (s.skipIf (decide (s.reg x = kk)))

/-- SNE Vx, kk (R104). -/
def execSneImm (x : Reg) (kk : Byte) (s : State) : Host.Outcome State Fault Refusal :=
  .next (s.skipIf (decide (s.reg x ≠ kk)))

/-- SE Vx, Vy (R105). -/
def execSeReg (x y : Reg) (s : State) : Host.Outcome State Fault Refusal :=
  .next (s.skipIf (decide (s.reg x = s.reg y)))

/-- SNE Vx, Vy (R106). -/
def execSneReg (x y : Reg) (s : State) : Host.Outcome State Fault Refusal :=
  .next (s.skipIf (decide (s.reg x ≠ s.reg y)))

/-- JP V0, nnn (R107): the register added is always `V[0]`; the 16-bit sum is not masked. -/
def execJpV0 (nnn : BitVec 12) (s : State) : Host.Outcome State Fault Refusal :=
  .next (s.setPc (nnn.setWidth 16 + (s.reg 0).setWidth 16))

end Sys2Proof.Machine
end

