-- ==== Sys2Proof/Machine/Display.lean ====
section
/-! DEFINITION. CLS, DRW and the display compositor (spec/43_display.md R150 to R156). -/

namespace Sys2Proof.Machine

/-- CLS (R150): every pixel off, `VF` untouched. -/
def execCls (s : State) : Host.Outcome State Fault Refusal := .next (s.setDisp (Vector.replicate 32 0))

/-- Draw one sprite row: the display with the mask exclusive-ored into display row `row`, and whether the draw has
collided so far (R154). -/
def composeRow (row : Fin 32) (mask : RowBits) (acc : Vector RowBits 32 × Bool) : Vector RowBits 32 × Bool :=
  (acc.1.set row.val (acc.1.get row ^^^ mask) row.isLt, acc.2 || collides (acc.1.get row) mask)

/-- Draw sprite bytes from sprite row `r` downward, with the sprite at column `cx` and height `cy` (R151 to R154). -/
def composeRows (cx cy : Nat) : Nat → List Byte → Vector RowBits 32 × Bool → Vector RowBits 32 × Bool
  | _, [], acc => acc
  | r, b :: bs, acc => composeRows cx cy (r + 1) bs (composeRow (targetRow cy r) (placedRow b cx) acc)

/-- The display and the collision flag after drawing the `n` sprite bytes at `I` (R151). -/
def State.drawn (s : State) (x y : Reg) (n : Nat) : Vector RowBits 32 × Bool :=
  composeRows (s.reg x).toNat (s.reg y).toNat 0 (Memory.readBytes s.mem s.dataBase n) (s.disp, false)

/-- DRW Vx, Vy, n (R151): coordinates, `I` and the sprite are read before `VF` is written (R155). -/
def execDrw (x y : Reg) (n : Nat) (s : State) : Host.Outcome State Fault Refusal :=
  s.inRange n ((s.setDisp (s.drawn x y n).1).setReg VF (flagByte (s.drawn x y n).2))

end Sys2Proof.Machine
end

