-- ==== Sys2Proof/Machine/Index.lean ====
section
/-! DEFINITION. The index register and memory (spec/42_index_memory.md R139 to R145). A memory form tests its whole
range before it changes anything (spec/20_memory.md R56) and leaves `I` unchanged. -/

namespace Sys2Proof.Machine

/-- LD I, nnn (R140). -/
def execLdI (nnn : BitVec 12) (s : State) : Host.Outcome State Fault Refusal := .next (s.setI (nnn.setWidth 16))

/-- ADD I, Vx (R141): modulo 65536, not masked to 12 bits, no flag. -/
def execAddI (x : Reg) (s : State) : Host.Outcome State Fault Refusal := .next (s.setI (s.i + (s.reg x).setWidth 16))

/-- LD F, Vx (R142). -/
def execLdF (x : Reg) (s : State) : Host.Outcome State Fault Refusal := .next (s.setI (glyphAddress (s.reg x)))

/-- LD B, Vx (R143): hundreds, tens and ones digit at `I`, `I + 1`, `I + 2`. -/
def execLdB (x : Reg) (s : State) : Host.Outcome State Fault Refusal :=
  s.inRange 3 (s.storeBytes s.dataBase (decimalDigits (s.reg x)))

/-- LD [I], Vx (R144): `V[0]` to `V[x]` to memory at `I`. -/
def execStoreRegs (x : Reg) (s : State) : Host.Outcome State Fault Refusal :=
  s.inRange (rangeLength x) (s.storeBytes s.dataBase (s.regsUpTo x))

/-- LD Vx, [I] (R145): `V[0]` to `V[x]` from memory at `I`. -/
def execLoadRegs (x : Reg) (s : State) : Host.Outcome State Fault Refusal :=
  s.inRange (rangeLength x) (s.setRegs (s.loadedRegs x))

end Sys2Proof.Machine
end

