-- ==== Sys2Proof/Machine/Keypad.lean ====
section
/-! DEFINITION. Keypad and timer instructions (spec/44_keypad_timers.md R160 to R165). -/

namespace Sys2Proof.Machine

/-- SKP Vx (R160): `KeyRangeFault` when `V[x] > 15`. -/
def execSkp (x : Reg) (s : State) : Host.Outcome State Fault Refusal :=
  match s.keyHeld (s.reg x) with
  | none => .next (s.raise (.keyRangeFault (s.reg x)))
  | some held => .next (s.skipIf held)

/-- SKNP Vx (R161): `KeyRangeFault` when `V[x] > 15`. -/
def execSknp (x : Reg) (s : State) : Host.Outcome State Fault Refusal :=
  match s.keyHeld (s.reg x) with
  | none => .next (s.raise (.keyRangeFault (s.reg x)))
  | some held => .next (s.skipIf (!held))

/-- LD Vx, DT (R162). -/
def execLdVxDt (x : Reg) (s : State) : Host.Outcome State Fault Refusal := .next (s.setReg x s.dt)

/-- LD Vx, K (R163): the lowest held key, or run again at the next cycle when none is held. -/
def execLdVxK (x : Reg) (s : State) : Host.Outcome State Fault Refusal :=
  match s.lowestKey with
  | some j => .next (s.setReg x (BitVec.ofNat 8 j.val))
  | none => .next (s.setPc (s.pc - 2))

/-- LD DT, Vx (R164). -/
def execLdDtVx (x : Reg) (s : State) : Host.Outcome State Fault Refusal := .next (s.setDt (s.reg x))

/-- LD ST, Vx (R165). -/
def execLdStVx (x : Reg) (s : State) : Host.Outcome State Fault Refusal := .next (s.setSt (s.reg x))

end Sys2Proof.Machine
end

