-- ==== Sys2Proof/Machine/Frame.lean ====
section
/-! DEFINITION. The engine around the instructions (spec/45_frame_driver_outputs.md): the cycle (R170), the host's
operations RESET, LOAD and STEP_FRAME (R172 to R180), the pixel mapper (R181), the audio block generator (R182, R183),
and the machine's advance from state to state, which `step` is. -/

namespace Sys2Proof.Machine

/-! ### The cycle -/

/-- One cycle (R170): fetch, decode, execute, or raise the fault of whichever fails. -/
def cycle (s : State) : Host.Outcome State Fault Refusal :=
  match s.fetch with
  | .error f => .next (s.raise f)
  | .ok (op, t) =>
    match decodeWord op with
    | none => .next (t.raise (.unsupportedOpcode op))
    | some i => exec i t

/-! ### Output mappers -/

/-- Whether the pixel of row `r` and column `c` is lit (R33): bit `63 - c` of `DISP[r]`. -/
def State.pixel (s : State) (r : Fin 32) (c : Fin 64) : Bool := (s.disp.get r).getLsbD (63 - c.val)

/-- The pixel buffer (R181): row-major, top row first, leftmost column first. -/
def State.pixelBuffer (s : State) : Vector (BitVec 24) 2048 :=
  Vector.ofFn (fun k : Fin 2048 =>
    if s.pixel ⟨k.val / 64, by omega⟩ ⟨k.val % 64, by omega⟩ then Config.colorOn else Config.colorOff)

/-- The audio block (R182, R183): the tone block when `SND_GATE` is set, silence of the same length otherwise. -/
def State.audioBlock (s : State) : Vector (BitVec 16) (2 * Config.samplesPerFrame) :=
  Vector.ofFn (fun k => if s.sndGate then Config.toneSample k.val else 0)

/-! ### The host's operations -/

/-- RESET (R173): every piece of state at its reset value, the generator seeded. What the host does next is the
host's and stays. -/
def State.performReset (s : State) (seed : Nat) : State :=
  { State.reset with rng := Config.seedRng seed s.rng, pending := s.pending }

/-- LOAD (R174, R175): a ROM of 3584 bytes or more is rejected and changes nothing; another is copied to 0x200
onward. -/
def State.performLoad (s : State) (rom : List Byte) : State :=
  if Config.romCapacity ≤ rom.length then s.setReply (some (.failed .loadError))
  else (s.storeBytes Config.loadOffset rom).setReply (some .loadOk)

/-- The start of STEP_FRAME (R176): latch the keys and the sound gate, with all the frame's cycles to run (R177). -/
def State.beginFrame (s : State) (keys : Vector Bool 16) : State :=
  { s with
    key := keys
    sndGate := decide (s.st ≠ 0)
    phase := .cycles Config.cyclesPerFrame
    reply := none }

/-- A timer one less, or 0 (R217). -/
def decay (t : Byte) : Byte := if t = 0 then 0 else t - 1

/-- The end of a successful STEP_FRAME: the timers decay (R179, R217), then the outputs are produced from the state as
it then stands (R180). -/
def State.endFrame (s : State) : State :=
  let t : State := ((s.setDt (decay s.dt)).setSt (decay s.st)).setPhase .between
  t.setReply (some (.frameOk t.pixelBuffer t.audioBlock))

/-- Perform a host operation between frames. While a fault is latched LOAD and STEP_FRAME change nothing and return it
again; RESET is always accepted (R212). -/
def State.perform (s : State) (op : HostOp) : State :=
  match op with
  | .reset seed => s.performReset seed
  | .load rom =>
    match s.fault with
    | some f => s.setReply (some (.failed f))
    | none => s.performLoad rom
  | .stepFrame keys =>
    match s.fault with
    | some f => s.setReply (some (.failed f))
    | none => s.beginFrame keys

/-! ### The machine's advance -/

/-- The host's turn: its next operation. With none left, a faulted machine has stopped with its fault (R212), and a
sound one holds its state (R222). -/
def hostTurn (s : State) : Host.Outcome State Fault Refusal :=
  match s.pending with
  | op :: rest => .next ((s.setPending rest).perform op)
  | [] =>
    match s.fault with
    | some f => .fault f
    | none => .next s

/-- One advance of the machine: a cycle of the frame, the end of the frame, or the host's turn. -/
def advance (s : State) : Host.Outcome State Fault Refusal :=
  match s.fault, s.phase with
  | none, .cycles (left + 1) => cycle (s.setPhase (.cycles left))
  | none, .cycles 0 => .next s.endFrame
  | none, .between => hostTurn s
  | some _, _ => hostTurn s

/-! ### Placing one instruction where the next step fetches it -/

/-- The phase in which the next step runs a cycle. -/
def Phase.running : Phase → Phase
  | .cycles (left + 1) => .cycles (left + 1)
  | .cycles 0 => .cycles 1
  | .between => .cycles 1

/-- The state with the instruction word `w` (of `nbits` bits) at `PC` and a cycle as the very next step: no latched
fault and at least one cycle of the frame left. Where no instruction fits at `PC` (R53), `PC` becomes the reset
`PC`. Log entry 8. -/
def State.placeWord (s : State) (nbits w : Nat) : State :=
  let op : Word := BitVec.ofNat 16 (w % 2 ^ nbits)
  let at_ : Word := if s.pc.toNat + 2 ≤ Config.memSize then s.pc else 0x200
  { s with
    pc := at_
    mem := Memory.writeBytes s.mem at_.toNat [highByte op, lowByte op]
    fault := none
    phase := s.phase.running }

end Sys2Proof.Machine
end

