-- ==== Sys2Proof/Machine/Step.lean ====
section
/-! DEFINITION. One step of the machine, and the placing of an instruction for it (Machine/Frame.lean says what both
do). -/

namespace Sys2Proof.Machine

/-- One step: a cycle of the frame (R170), the end of the frame (R179, R180), or the host's turn (R172). -/
def step (s : State) : Host.Outcome State Fault Refusal := advance s

/-- `s` with the instruction of spec/opcode_table.json's numbering stored where the next step fetches it. -/
def State.withFetchWord (s : State) (nbits w : Nat) : State := s.placeWord nbits w

end Sys2Proof.Machine
end

