-- ==== Sys2Proof/Safety.lean ====
section
/-! DEFINITION. The terms claims are stated in: which parts of the state a step keeps, what a register or flag form
writes, and the invariant of every run (spec/10_state.md R22, R30, R36; spec/20_memory.md R57). -/

namespace Sys2Proof.Machine

/-- The parts of the state, for saying what an instruction leaves unchanged. -/
inductive Part where
  | regs | index | pc | stack | delay | sound | keys | display | memory | gate | fault | rng | phase | pending | reply
deriving DecidableEq, Repr

/-- The part is the same in both states; memory is compared byte by byte, at every address. -/
def Part.kept (p : Part) (s t : State) : Prop :=
  match p with
  | .regs => ∀ j : Reg, t.reg j = s.reg j
  | .index => t.i = s.i
  | .pc => t.pc = s.pc
  | .stack => t.sp = s.sp ∧ t.stack = s.stack
  | .delay => t.dt = s.dt
  | .sound => t.st = s.st
  | .keys => t.key = s.key
  | .display => t.disp = s.disp
  | .memory => ∀ a : Nat, t.byteAt a = s.byteAt a
  | .gate => t.sndGate = s.sndGate
  | .fault => t.fault = s.fault
  | .rng => t.rng = s.rng
  | .phase => t.phase = s.phase
  | .pending => t.pending = s.pending
  | .reply => t.reply = s.reply

/-- Every part but the listed ones is the same in both states. -/
def KeepsAllBut (ps : List Part) (s t : State) : Prop := ∀ p : Part, p ∉ ps → p.kept s t

/-- Every general register but `x` is the same in both states. -/
def KeepsRegsBut (x : Reg) (s t : State) : Prop := ∀ j : Reg, j ≠ x → t.reg j = s.reg j

/-- Every byte outside the `len` bytes at `base` is the same in both states. -/
def KeepsBytesOutside (base len : Nat) (s t : State) : Prop :=
  ∀ a : Nat, a < base ∨ base + len ≤ a → t.byteAt a = s.byteAt a

/-- The two bytes `hi`, `lo` of a word fetched at `PC` are what stood there before, each where it lies outside the `len`
bytes stored at `base`. -/
def KeptUnlessStored (s : State) (base len : Nat) (hi lo : Byte) : Prop :=
  (s.pc.toNat < base ∨ base + len ≤ s.pc.toNat → hi = s.byteAt s.pc.toNat)
  ∧ (s.pc.toNat + 1 < base ∨ base + len ≤ s.pc.toNat + 1 → lo = s.byteAt (s.pc.toNat + 1))

/-- Decimal digit `k` of a byte, hundreds first (R143). -/
def decimalDigit (b : Byte) (k : Nat) : Nat := b.toNat / 10 ^ (2 - k) % 10

/-- The instruction always completes, and writes `value` to `V[x]` and nothing else. -/
def WritesReg (i : Instr) (x : Reg) (value : State → Byte) : Prop :=
  ∀ s : State, ∃ t : State,
    exec i s = .next t ∧ t.reg x = value s ∧ KeepsRegsBut x s t ∧ KeepsAllBut [.regs] s t

/-- The instruction always completes, and writes `value` to `V[x]`, then 1 or 0 to `VF` as `flag` holds or not, and
nothing else; where `x` is `VF` the flag is what stays. -/
def WritesRegAndFlag (i : Instr) (x : Reg) (value : State → Nat) (flag : State → Prop) : Prop :=
  ∀ s : State, ∃ t : State,
    exec i s = .next t
    ∧ (flag s → t.reg VF = 1) ∧ (¬ flag s → t.reg VF = 0)
    ∧ (x ≠ VF → (t.reg x).toNat = value s)
    ∧ (∀ j : Reg, j ≠ x → j ≠ VF → t.reg j = s.reg j)
    ∧ KeepsAllBut [.regs] s t

/-- The instruction always completes, and moves `PC` past the next instruction exactly when `cond` holds, changing
nothing else. -/
def SkipsWhen (i : Instr) (s : State) (cond : Prop) : Prop :=
  ∃ t : State,
    exec i s = .next t ∧ (cond → t.pc = s.pc + 2) ∧ (¬ cond → t.pc = s.pc) ∧ KeepsAllBut [.pc] s t

/-- The instruction raises `f` and does nothing else: the fault is latched and returned to the host, and the frame
is over (R171, R208). -/
def OnlyRaises (i : Instr) (s : State) (f : Fault) : Prop :=
  ∃ t : State,
    exec i s = .next t ∧ t.fault = some f ∧ t.phase = .between ∧ t.reply = some (.failed f)
    ∧ KeepsAllBut [.fault, .phase, .reply] s t

/-! ### What each form may write (R21 to R34) -/

/-- The parts an instruction may write when it does not fault (R21, R22, R26 to R34). -/
def formParts : Instr → List Part
  | .cls => [.display]
  | .ret => [.pc, .stack]
  | .jp _ => [.pc]
  | .call _ => [.pc, .stack]
  | .seImm _ _ => [.pc]
  | .sneImm _ _ => [.pc]
  | .seReg _ _ => [.pc]
  | .sneReg _ _ => [.pc]
  | .ldImm _ _ => [.regs]
  | .ldReg _ _ => [.regs]
  | .addImm _ _ => [.regs]
  | .orReg _ _ => [.regs]
  | .andReg _ _ => [.regs]
  | .xorReg _ _ => [.regs]
  | .addReg _ _ => [.regs]
  | .subReg _ _ => [.regs]
  | .shr _ _ => [.regs]
  | .subn _ _ => [.regs]
  | .shl _ _ => [.regs]
  | .ldI _ => [.index]
  | .jpV0 _ => [.pc]
  | .rnd _ _ => [.regs, .rng]
  | .drw _ _ _ => [.regs, .display]
  | .skp _ => [.pc]
  | .sknp _ => [.pc]
  | .ldVxDt _ => [.regs]
  | .ldDtVx _ => [.delay]
  | .ldStVx _ => [.sound]
  | .ldVxK _ => [.regs, .pc]
  | .addI _ => [.index]
  | .ldF _ => [.index]
  | .ldB _ => [.memory]
  | .storeRegs _ => [.memory]
  | .loadRegs _ => [.regs]

/-- The registers an instruction may write: its destination, `VF` for the forms that write the flag (R23), the range
`V[0]` to `V[x]` for LD Vx,[I] (R21). -/
def formWrites (i : Instr) (j : Reg) : Prop :=
  match i with
  | .cls => False
  | .ret => False
  | .jp _ => False
  | .call _ => False
  | .seImm _ _ => False
  | .sneImm _ _ => False
  | .seReg _ _ => False
  | .sneReg _ _ => False
  | .ldImm x _ => j = x
  | .ldReg x _ => j = x
  | .addImm x _ => j = x
  | .orReg x _ => j = x
  | .andReg x _ => j = x
  | .xorReg x _ => j = x
  | .addReg x _ => j = x ∨ j = VF
  | .subReg x _ => j = x ∨ j = VF
  | .shr x _ => j = x ∨ j = VF
  | .subn x _ => j = x ∨ j = VF
  | .shl x _ => j = x ∨ j = VF
  | .ldI _ => False
  | .jpV0 _ => False
  | .rnd x _ => j = x
  | .drw _ _ _ => j = VF
  | .skp _ => False
  | .sknp _ => False
  | .ldVxDt x => j = x
  | .ldDtVx _ => False
  | .ldStVx _ => False
  | .ldVxK x => j = x
  | .addI _ => False
  | .ldF _ => False
  | .ldB _ => False
  | .storeRegs _ => False
  | .loadRegs x => j ≤ x

/-! ### Sprites, pixel by pixel (R152, R153) -/

/-- A 1 bit of the `n` sprite bytes at `I` lands on the pixel of row `r`, column `c`, when the sprite is drawn at
column `cx` and height `cy`: bit `7 - j` of byte `k` lands at row `(cy + k) mod 32`, column `(cx + j) mod 64`. -/
def SpritePixel (s : State) (cx cy n : Nat) (r : Fin 32) (c : Fin 64) : Prop :=
  ∃ k j : Nat, k < n ∧ j < 8 ∧ (cy + k) % 32 = r.val ∧ (cx + j) % 64 = c.val
    ∧ (s.byteAt (s.dataBase + k)).getLsbD (7 - j) = true

/-- Some pixel lit in `s` is off in `t`. -/
def SomePixelWentOff (s t : State) : Prop := ∃ (r : Fin 32) (c : Fin 64), s.pixel r c = true ∧ t.pixel r c = false

/-! ### Nested calls (R102) -/

/-- The state after `k` CALLs in a row, one inside the other. -/
def callsFrom (nnn : BitVec 12) : Nat → State → Option State
  | 0, s => some s
  | k + 1, s =>
    match exec (.call nnn) s with
    | .next t => callsFrom nnn k t
    | .fault _ => none
    | .refused _ => none

/-! ### The invariant -/

/-- The invariant of the machine. -/
structure State.Inv (s : State) : Prop where
  /-- Memory keeps its canonical form, inside the 4096 addresses (R34). -/
  mem : Memory.wf s.mem = true
  /-- `PC` is at most 0x10FE (R22). -/
  pc : s.pc.toNat ≤ 0x10FE
  /-- Every valid stack entry is at most 4096 (R100, R102). -/
  stack : ∀ j : Fin 16, j.val < s.sp.val → (s.stack.get j).toNat ≤ 4096
  /-- A faulted machine runs no frame (R36, R208). -/
  latch : s.fault ≠ none → s.phase = .between
  /-- A frame has no more cycles left than a frame has (R177). -/
  left : ∀ k : Nat, s.phase = .cycles k → k ≤ Config.cyclesPerFrame

end Sys2Proof.Machine
end

