-- ==== Sys2Proof/Certificates/Slice0/Obligations.lean ====
section
/-! DEFINITION. The statements for the provers, from the numbered rules of spec/. The rule, and whatever a statement
owes to the spec's own decisions or to the model's log, is named in each docstring. -/

open Sys2Proof Sys2Proof.Machine

/-- R74, R75, R78. Derived: the bit patterns are the spec's decision D5, and the ignored `y` field of SHR and SHL is kept by the model's choice (log entry 12). -/
def Obligations.DecodeOfEncodeIsTheInstruction : Prop :=
  ∀ i : Instr, i.WellFormed → decodeWord (encode i) = some i

/-- R74: "the decoder is a function of the word alone", and no two forms overlap. Derived: the patterns are the spec's decision D5, and that SHR and SHL keep the `y` field that R78 ignores, so that the words of one effect are told apart, is the model's choice (log entry 12, DESIGN CHOICE). -/
def Obligations.EncodeOfDecodeIsTheWord : Prop :=
  ∀ (op : Word) (i : Instr), decodeWord op = some i → i.WellFormed ∧ encode i = op

/-- R76, R77. Derived: the masks and family 0 are the spec's decisions D4 and D5. -/
def Obligations.IllegalWordsAreExactlyTheListed : Prop :=
  ∀ op : Word,
    let family := op.toNat / 4096
    let low4 := op.toNat % 16
    let low8 := op.toNat % 256
    decodeWord op = none ↔
      (family = 0 ∧ op ≠ 0x00E0 ∧ op ≠ 0x00EE)
      ∨ ((family = 5 ∨ family = 9) ∧ low4 ≠ 0)
      ∨ (family = 8 ∧ (8 ≤ low4 ∧ low4 ≤ 13 ∨ low4 = 15))
      ∨ (family = 14 ∧ low8 ≠ 0x9E ∧ low8 ≠ 0xA1)
      ∨ (family = 15 ∧ low8 ≠ 0x07 ∧ low8 ≠ 0x0A ∧ low8 ≠ 0x15 ∧ low8 ≠ 0x18 ∧ low8 ≠ 0x1E ∧ low8 ≠ 0x29
          ∧ low8 ≠ 0x33 ∧ low8 ≠ 0x55 ∧ low8 ≠ 0x65)

/-- R75, one word of every form. Derived: which word selects which form is the spec's decision D5 and its general knowledge G1 (log entry 12, PRESUMED). -/
def Obligations.SpelledWordsDecode : Prop :=
  decodeWord 0x00E0 = some .cls
  ∧ decodeWord 0x00EE = some .ret
  ∧ decodeWord 0x1ABC = some (.jp 0xABC)
  ∧ decodeWord 0x2ABC = some (.call 0xABC)
  ∧ decodeWord 0x312A = some (.seImm 1 0x2A)
  ∧ decodeWord 0x412A = some (.sneImm 1 0x2A)
  ∧ decodeWord 0x5120 = some (.seReg 1 2)
  ∧ decodeWord 0x9120 = some (.sneReg 1 2)
  ∧ decodeWord 0x6FAB = some (.ldImm 15 0xAB)
  ∧ decodeWord 0x8120 = some (.ldReg 1 2)
  ∧ decodeWord 0x71FF = some (.addImm 1 0xFF)
  ∧ decodeWord 0x8121 = some (.orReg 1 2)
  ∧ decodeWord 0x8122 = some (.andReg 1 2)
  ∧ decodeWord 0x8123 = some (.xorReg 1 2)
  ∧ decodeWord 0x8F14 = some (.addReg 15 1)
  ∧ decodeWord 0x8125 = some (.subReg 1 2)
  ∧ decodeWord 0x8126 = some (.shr 1 2)
  ∧ decodeWord 0x8127 = some (.subn 1 2)
  ∧ decodeWord 0x812E = some (.shl 1 2)
  ∧ decodeWord 0xA300 = some (.ldI 0x300)
  ∧ decodeWord 0xBFFF = some (.jpV0 0xFFF)
  ∧ decodeWord 0xC10F = some (.rnd 1 0x0F)
  ∧ decodeWord 0xD12F = some (.drw 1 2 15)
  ∧ decodeWord 0xE19E = some (.skp 1)
  ∧ decodeWord 0xE1A1 = some (.sknp 1)
  ∧ decodeWord 0xF107 = some (.ldVxDt 1)
  ∧ decodeWord 0xF115 = some (.ldDtVx 1)
  ∧ decodeWord 0xF118 = some (.ldStVx 1)
  ∧ decodeWord 0xF50A = some (.ldVxK 5)
  ∧ decodeWord 0xF21E = some (.addI 2)
  ∧ decodeWord 0xF229 = some (.ldF 2)
  ∧ decodeWord 0xF033 = some (.ldB 0)
  ∧ decodeWord 0xFF55 = some (.storeRegs 15)
  ∧ decodeWord 0xF265 = some (.loadRegs 2)

/-- R50, R70, R79. The rejection of fewer than two bytes is the model's (log entry 11): the machine never decodes them. -/
def Obligations.DecodeReadsTwoBytesBigEndian : Prop :=
  (∀ (hi lo : Byte) (rest : List Byte) (i : Instr),
      decodeWord (hi ++ lo) = some i → decode (hi :: lo :: rest) = .ok (i, rest))
  ∧ (∀ (hi lo : Byte) (rest : List Byte),
      decodeWord (hi ++ lo) = none → decode (hi :: lo :: rest) = .error (.unsupportedOpcode (hi ++ lo)))
  ∧ (∀ bs : List Byte, bs.length < 2 → decode bs = .error .truncated)

/-- R170, R171, R204, R208. What the step adds around `exec`: one cycle fewer left, and `PC` past the instruction. Derived: the fault latch is the spec's decision D15 (log entry 13); the count of cycles left, the phase and the reply are the model's account of STEP_FRAME (log entry 4). -/
def Obligations.StepRunsOneCycle : Prop :=
  ∀ (s : State) (left : Nat), s.fault = none → s.phase = .cycles (left + 1) →
    (∀ i : Instr, s.pc.toNat ≤ 4094 → decodeWord (s.byteAt s.pc.toNat ++ s.byteAt (s.pc.toNat + 1)) = some i →
      step s = exec i ((s.setPhase (.cycles left)).setPc (s.pc + 2)))
    ∧ (s.pc.toNat ≤ 4094 → decodeWord (s.byteAt s.pc.toNat ++ s.byteAt (s.pc.toNat + 1)) = none →
      ∃ t : State, step s = .next t
        ∧ t.fault = some (.unsupportedOpcode (s.byteAt s.pc.toNat ++ s.byteAt (s.pc.toNat + 1)))
        ∧ t.pc = s.pc + 2 ∧ t.phase = .between ∧ t.reply = t.fault.map .failed
        ∧ KeepsAllBut [.pc, .fault, .phase, .reply] s t)
    ∧ (∀ f : Fault, s.fetch = .error f →
      ∃ t : State, step s = .next t ∧ t.fault = some f ∧ t.phase = .between ∧ t.reply = some (.failed f)
        ∧ KeepsAllBut [.fault, .phase, .reply] s t)

/-- R52. -/
def Obligations.FetchReadsBigEndianWord : Prop :=
  ∀ s : State, s.pc.toNat ≤ 4094 →
    ∃ t : State, s.fetch = .ok (s.byteAt s.pc.toNat ++ s.byteAt (s.pc.toNat + 1), t)
      ∧ t.pc.toNat = s.pc.toNat + 2 ∧ KeepsAllBut [.pc] s t

/-- R53, R171. Derived: what happens at 4095 and above 4096 is the spec's decision D1. The phase and the reply a raise leaves are the model's account of STEP_FRAME (log entry 4). -/
def Obligations.FetchBeyondMemoryFaults : Prop :=
  ∀ (s : State) (left : Nat), s.fault = none → s.phase = .cycles (left + 1) → 4094 < s.pc.toNat →
    ∃ (t : State) (f : Fault), step s = .next t ∧ t.fault = some f
      ∧ (s.pc.toNat = 4096 → f = .fetchFault 4096)
      ∧ (s.pc.toNat = 4095 → f = .memRangeFault 4096)
      ∧ (4096 < s.pc.toNat → f = .memRangeFault s.pc.toNat)
      ∧ t.phase = .between ∧ t.reply = some (.failed f) ∧ KeepsAllBut [.fault, .phase, .reply] s t

/-- R203, R212. Derived: the sticky latch is the spec's decision D15; that a faulted machine with an idle host answers its fault is the model's (log entry 4). -/
def Obligations.StepStopsOnlyWhenFaulted : Prop :=
  ∀ s : State,
    (∃ t : State, step s = .next t) ∨ (∃ f : Fault, step s = .fault f ∧ s.fault = some f ∧ s.pending = [])

/-- R171, R208. Derived: testing before the first write is the spec's decision D18, the latch D15. The phase and the reply a raise leaves are the model's account of STEP_FRAME (log entry 4). -/
def Obligations.FaultsArePrecise : Prop :=
  ∀ (i : Instr) (s t : State) (f : Fault), s.fault = none → exec i s = .next t → t.fault = some f →
    t.phase = .between ∧ t.reply = some (.failed f) ∧ KeepsAllBut [.fault, .phase, .reply] s t

/-- R206, R200. Derived: the rule is the spec's own inference, and two of the faults its decisions D2 and D3. -/
def Obligations.EachFaultHasItsForms : Prop :=
  ∀ (i : Instr) (s t : State) (f : Fault), s.fault = none → exec i s = .next t → t.fault = some f →
    (f = .stackUnderflow ∧ i = .ret ∧ s.sp = 0)
    ∨ (f = .stackOverflow ∧ (∃ nnn, i = .call nnn) ∧ s.sp = 16)
    ∨ (∃ x, (i = .skp x ∨ i = .sknp x) ∧ f = .keyRangeFault (s.reg x) ∧ 15 < (s.reg x).toNat)
    ∨ (f = .memRangeFault (max s.dataBase 4096)
        ∧ ((∃ x, i = .ldB x ∧ 4095 < s.dataBase + 2)
          ∨ (∃ x, (i = .storeRegs x ∨ i = .loadRegs x) ∧ 4095 < s.dataBase + x.val)
          ∨ (∃ x y n, i = .drw x y n ∧ 1 ≤ n ∧ 4095 < s.dataBase + n - 1)))

/-- R212, R36. Derived: the sticky latch is the spec's decision D15; that a faulted machine whose host asks for nothing answers its fault from the step (the first clause), the list of operations and the reply are the model's (log entry 4). -/
def Obligations.HostOperationsWhileFaulted : Prop :=
  ∀ (s : State) (f : Fault), s.fault = some f →
    (s.pending = [] → step s = .fault f)
    ∧ (∀ (op : HostOp) (rest : List HostOp), s.pending = op :: rest → (∀ seed, op ≠ .reset seed) →
        ∃ t : State, step s = .next t ∧ t.pending = rest ∧ t.reply = some (.failed f)
          ∧ KeepsAllBut [.pending, .reply] s t)

/-- R173, R212. Derived: most reset values are the spec's decision D8; the seeding is a free value (log entry 2). The steps, the phase, the pending operations and the reply are the model's account of the host and of STEP_FRAME (log entry 4). -/
def Obligations.ResetOperationClearsEverything : Prop :=
  ∀ (s : State) (seed : Nat) (rest : List HostOp), (s.fault ≠ none ∨ s.phase = .between) →
    s.pending = .reset seed :: rest →
    ∃ t : State, step s = .next t ∧ t.pending = rest ∧ t.rng = Config.seedRng seed s.rng
      ∧ KeepsAllBut [.rng, .pending] State.reset t

/-- R174, R175, R201. Derived: when LOAD may be performed and that a failed one copies nothing is the spec's decision D16. The premise on memory is part of the invariant StepKeepsTheInvariant keeps. The steps, the phase, the pending operations and the reply are the model's account of the host and of STEP_FRAME (log entry 4). -/
def Obligations.LoadCopiesOrRejects : Prop :=
  ∀ (s : State) (rom : List Byte) (rest : List HostOp), Memory.wf s.mem = true → s.fault = none →
    s.phase = .between → s.pending = .load rom :: rest →
    (rom.length ≤ 3583 →
      ∃ t : State, step s = .next t ∧ t.reply = some .loadOk ∧ t.pending = rest
        ∧ (∀ k : Nat, k < rom.length → t.byteAt (0x200 + k) = rom.getD k 0)
        ∧ KeepsBytesOutside 0x200 rom.length s t ∧ KeepsAllBut [.memory, .pending, .reply] s t)
    ∧ (3584 ≤ rom.length →
      ∃ t : State, step s = .next t ∧ t.reply = some (.failed .loadError) ∧ t.pending = rest
        ∧ KeepsAllBut [.pending, .reply] s t)

/-- R176, R177. Derived: the moment the gate is sampled is the spec's decision D14 (log entry 13); that the latches are a step of their own, that the cycles left stand in the phase, and that there is no reply while a frame runs are the model's (log entry 4, DESIGN CHOICE). -/
def Obligations.FrameStartLatchesKeysAndGate : Prop :=
  ∀ (s : State) (keys : Vector Bool 16) (rest : List HostOp), s.fault = none → s.phase = .between →
    s.pending = .stepFrame keys :: rest →
    ∃ t : State, step s = .next t ∧ t.key = keys ∧ (t.sndGate = true ↔ 0 < s.st.toNat)
      ∧ t.phase = .cycles Config.cyclesPerFrame ∧ t.pending = rest ∧ t.reply = none
      ∧ KeepsAllBut [.keys, .gate, .phase, .pending, .reply] s t

/-- R177, R176, R170, for every value of `Config.cyclesPerFrame`. Derived: the moment the gate is latched is the spec's decision D14 (log entry 13); the steps of a frame, the phase, the pending operations and the reply are the model's account of STEP_FRAME (log entry 4). -/
def Obligations.FrameRunsItsCycles : Prop :=
  ∀ (s : State) (keys : Vector Bool 16) (rest : List HostOp), s.fault = none → s.phase = .between →
    s.pending = .stepFrame keys :: rest →
    ∀ (n : Nat) (t : State), n ≤ Config.cyclesPerFrame →
      (∀ (m : Nat) (u : State), m ≤ n → Host.Core.run Sys2Proof.core (m + 1) s = .next u → u.fault = none) →
      Host.Core.run Sys2Proof.core (n + 1) s = .next t →
      t.phase = .cycles (Config.cyclesPerFrame - n) ∧ t.key = keys ∧ (t.sndGate = true ↔ 0 < s.st.toNat)
        ∧ t.pending = rest ∧ t.reply = none

/-- R179, R180, R217 (the subtraction of natural numbers stops at 0). Derived: that decay and outputs are one step, from no cycle left to between operations, and that the result stands in the reply are the model's (log entry 4, DESIGN CHOICE). -/
def Obligations.FrameEndDecaysAndEmits : Prop :=
  ∀ s : State, s.fault = none → s.phase = .cycles 0 →
    ∃ t : State, step s = .next t
      ∧ t.dt.toNat = s.dt.toNat - 1 ∧ t.st.toNat = s.st.toNat - 1
      ∧ t.phase = .between ∧ t.reply = some (.frameOk t.pixelBuffer t.audioBlock)
      ∧ KeepsAllBut [.delay, .sound, .phase, .reply] s t

/-- R181, R33. Derived: the two colours are parameters (D12, log entry 5). -/
def Obligations.PixelBufferIsRowMajor : Prop :=
  ∀ (s : State) (r : Fin 32) (c : Fin 64) (k : Fin 2048), k.val = r.val * 64 + c.val →
    s.pixelBuffer.get k = if (s.disp.get r).getLsbD (63 - c.val) then Config.colorOn else Config.colorOff

/-- R182, R183. Derived: the samples are parameters (D13, log entry 6), the sampling point D14. -/
def Obligations.AudioBlockFollowsTheGate : Prop :=
  ∀ (s : State) (k : Fin (2 * Config.samplesPerFrame)),
    (s.sndGate = true → s.audioBlock.get k = Config.toneSample k.val)
    ∧ (s.sndGate = false → s.audioBlock.get k = 0)

/-- R240, R241, R32, R28, R29. Derived: R240 is the spec's own inference. The steps, the phase, the pending operations and the reply are the model's account of the host and of STEP_FRAME (log entry 4). -/
def Obligations.KeysAndTimersStandStillInAFrame : Prop :=
  ∀ (s t : State) (left : Nat), s.fault = none → s.phase = .cycles (left + 1) → step s = .next t →
    t.key = s.key ∧ t.sndGate = s.sndGate ∧ t.pending = s.pending
    ∧ (t.dt ≠ s.dt → ∃ x, decodeWord (s.byteAt s.pc.toNat ++ s.byteAt (s.pc.toNat + 1)) = some (.ldDtVx x))
    ∧ (t.st ≠ s.st → ∃ x, decodeWord (s.byteAt s.pc.toNat ++ s.byteAt (s.pc.toNat + 1)) = some (.ldStVx x))

/-- R222: "Between STEP_FRAMEs the core does nothing and holds all its state." Derived: an empty list for a host that asks nothing is the model's (log entry 4). -/
def Obligations.IdleMachineHoldsItsState : Prop :=
  ∀ s : State, s.fault = none → s.phase = .between → s.pending = [] → step s = .next s

/-- R40. Derived: the zeros are the spec's decision D8 but for `SP` and the display; the font is the opaque parameter `FONT` (log entry 7). -/
def Obligations.ResetState : Prop :=
  State.reset.pc = 0x200
  ∧ (∀ a : Nat, State.reset.byteAt a = if h : a < 80 then Config.font.get ⟨a, h⟩ else 0)
  ∧ (∀ j : Reg, State.reset.reg j = 0) ∧ State.reset.i = 0 ∧ State.reset.dt = 0 ∧ State.reset.st = 0
  ∧ State.reset.sp = 0 ∧ (∀ j : Fin 16, State.reset.stack.get j = 0) ∧ (∀ j : Fin 16, State.reset.key.get j = false)
  ∧ (∀ r : Fin 32, State.reset.disp.get r = 0) ∧ State.reset.sndGate = false ∧ State.reset.fault = none

/-- The five parts of State.Inv at reset, the base of StepKeepsTheInvariant. Derived: the bound on `PC` is the spec's own inference (R22); the phase is the model's (log entry 4). -/
def Obligations.ResetHoldsTheInvariant : Prop :=
  State.reset.Inv

/-- R22: "the largest values `PC` can reach are 4098 ... and 0x10FE"; R102: 4096 is "the largest value a stack entry can hold". Derived: R22's bound is the spec's own inference. The steps, the phase, the pending operations and the reply are the model's account of the host and of STEP_FRAME (log entry 4). -/
def Obligations.StepKeepsTheInvariant : Prop :=
  ∀ s t : State, s.Inv → step s = .next t → t.Inv

/-- R21 to R37, the closed lists of what each form writes. Derived: R21 is the spec's own inference. The phase and the reply a raise leaves are the model's account of STEP_FRAME (log entry 4). -/
def Obligations.FormsWriteOnlyTheirParts : Prop :=
  ∀ (i : Instr) (s t : State), exec i s = .next t →
    KeepsAllBut (formParts i) s t
    ∨ (∃ f : Fault, t.fault = some f ∧ KeepsAllBut [.fault, .phase, .reply] s t)

/-- R21, R23: the flag is written by exactly six forms. Derived: R21 and R25 are the spec's own inferences. -/
def Obligations.RegistersWrittenOnlyByTheirForms : Prop :=
  ∀ (i : Instr) (s t : State) (j : Reg), exec i s = .next t → t.reg j ≠ s.reg j → formWrites i j

/-- R120, R122. Derived: their encoding lines are DecodeOfEncodeIsTheInstruction's. -/
def Obligations.LoadsWriteTheirOperand : Prop :=
  (∀ (x : Reg) (kk : Byte), WritesReg (.ldImm x kk) x (fun _ => kk))
  ∧ (∀ x y : Reg, WritesReg (.ldReg x y) x (fun s => s.reg y))

/-- R121. Derived: its encoding line is DecodeOfEncodeIsTheInstruction's. -/
def Obligations.AddImmediateWrapsWithoutFlag : Prop :=
  ∀ (x : Reg) (kk : Byte),
    WritesReg (.addImm x kk) x (fun s => BitVec.ofNat 8 (((s.reg x).toNat + kk.toNat) % 256))

/-- R123, R124, R125. Derived: their encoding lines are DecodeOfEncodeIsTheInstruction's. -/
def Obligations.LogicFormsAreBitwiseWithoutFlag : Prop :=
  ∀ x y : Reg,
    WritesReg (.orReg x y) x (fun s => s.reg x ||| s.reg y)
    ∧ WritesReg (.andReg x y) x (fun s => s.reg x &&& s.reg y)
    ∧ WritesReg (.xorReg x y) x (fun s => s.reg x ^^^ s.reg y)

/-- R126, R24. Derived: that the flag lands last where x = F is the spec's decision D6. -/
def Obligations.AddSetsCarry : Prop :=
  ∀ x y : Reg,
    WritesRegAndFlag (.addReg x y) x (fun s => ((s.reg x).toNat + (s.reg y).toNat) % 256)
      (fun s => 256 ≤ (s.reg x).toNat + (s.reg y).toNat)

/-- R127, R129, R24. Derived: D6. -/
def Obligations.SubtractSetsNotBorrow : Prop :=
  ∀ x y : Reg,
    WritesRegAndFlag (.subReg x y) x (fun s => ((s.reg x).toNat + 256 - (s.reg y).toNat) % 256)
      (fun s => (s.reg y).toNat ≤ (s.reg x).toNat)
    ∧ WritesRegAndFlag (.subn x y) x (fun s => ((s.reg y).toNat + 256 - (s.reg x).toNat) % 256)
      (fun s => (s.reg x).toNat ≤ (s.reg y).toNat)

/-- R128, R130, R78, R24. Derived: D6. -/
def Obligations.ShiftsMoveVxByOne : Prop :=
  ∀ x y : Reg,
    WritesRegAndFlag (.shr x y) x (fun s => (s.reg x).toNat / 2) (fun s => (s.reg x).toNat % 2 = 1)
    ∧ WritesRegAndFlag (.shl x y) x (fun s => 2 * (s.reg x).toNat % 256) (fun s => 128 ≤ (s.reg x).toNat)

/-- R131, R37. Derived: the draw is a free value (log entry 1, the spec's decision D11). -/
def Obligations.RandomByteUnderMask : Prop :=
  ∀ (x : Reg) (kk : Byte) (s : State), ∃ t : State,
    exec (.rnd x kk) s = .next t
    ∧ (∀ b : Nat, (t.reg x).getLsbD b = ((Config.draw8 s.rng).getLsbD b && kk.getLsbD b))
    ∧ t.rng = s.rng + 1 ∧ KeepsRegsBut x s t ∧ KeepsAllBut [.regs, .rng] s t

/-- R101, R107. Derived: their encoding lines are DecodeOfEncodeIsTheInstruction's. -/
def Obligations.JumpsSetPc : Prop :=
  ∀ (nnn : BitVec 12) (s : State),
    (∃ t : State, exec (.jp nnn) s = .next t ∧ t.pc.toNat = nnn.toNat ∧ KeepsAllBut [.pc] s t)
    ∧ (∃ t : State, exec (.jpV0 nnn) s = .next t ∧ t.pc.toNat = nnn.toNat + (s.reg 0).toNat
        ∧ KeepsAllBut [.pc] s t)

/-- R102. Derived: the value pushed and the slot are the spec's decisions D21 and D22. -/
def Obligations.CallPushesTheNextAddress : Prop :=
  ∀ (nnn : BitVec 12) (s : State), s.sp.val < 16 → ∃ t : State,
    exec (.call nnn) s = .next t
    ∧ (∀ j : Fin 16, j.val = s.sp.val → t.stack.get j = s.pc)
    ∧ (∀ j : Fin 16, j.val ≠ s.sp.val → t.stack.get j = s.stack.get j)
    ∧ t.sp.val = s.sp.val + 1 ∧ t.pc.toNat = nnn.toNat ∧ KeepsAllBut [.pc, .stack] s t

/-- R100. Derived: the slot and that the entry stays are the spec's decisions D22 and D26. -/
def Obligations.ReturnPopsThePc : Prop :=
  ∀ s : State, s.sp.val ≠ 0 → ∃ t : State,
    exec .ret s = .next t
    ∧ (∀ j : Fin 16, j.val + 1 = s.sp.val → t.pc = s.stack.get j)
    ∧ t.sp.val + 1 = s.sp.val ∧ t.stack = s.stack ∧ KeepsAllBut [.pc, .stack] s t

/-- R100, R102, R171. Derived: the latch is the spec's decision D15. The phase and the reply a raise leaves are the model's account of STEP_FRAME (log entry 4). -/
def Obligations.StackBoundsFault : Prop :=
  (∀ (nnn : BitVec 12) (s : State), s.sp = 16 → OnlyRaises (.call nnn) s .stackOverflow)
  ∧ (∀ s : State, s.sp = 0 → OnlyRaises .ret s .stackUnderflow)

/-- R100, R102, C6. Derived: D21. -/
def Obligations.ReturnUndoesCall : Prop :=
  ∀ (nnn : BitVec 12) (w : Word) (s : State), s.sp.val < 16 → ∃ t u : State,
    exec (.call nnn) s = .next t ∧ exec .ret (t.setPc w) = .next u
    ∧ u.pc = s.pc ∧ u.sp = s.sp ∧ KeepsAllBut [.pc, .stack] s u

/-- R102, S3: "16 nested CALLs succeed". Derived. The phase and the reply a raise leaves are the model's account of STEP_FRAME (log entry 4). -/
def Obligations.SixteenCallsNest : Prop :=
  ∀ (nnn : BitVec 12) (s : State) (k : Nat), s.sp = 0 → k ≤ 16 → ∃ t : State,
    callsFrom nnn k s = some t ∧ t.sp.val = k ∧ t.fault = s.fault
    ∧ (k = 16 → OnlyRaises (.call nnn) t .stackOverflow)

/-- R103 to R106. Derived: their encoding lines are DecodeOfEncodeIsTheInstruction's. -/
def Obligations.ComparesSkip : Prop :=
  ∀ (x y : Reg) (kk : Byte) (s : State),
    SkipsWhen (.seImm x kk) s (s.reg x = kk) ∧ SkipsWhen (.sneImm x kk) s (s.reg x ≠ kk)
    ∧ SkipsWhen (.seReg x y) s (s.reg x = s.reg y) ∧ SkipsWhen (.sneReg x y) s (s.reg x ≠ s.reg y)

/-- R140 to R142. Derived: the wrap at 65536 is the spec's decision D24. -/
def Obligations.IndexFormsSetI : Prop :=
  ∀ (nnn : BitVec 12) (x : Reg) (s : State),
    (∃ t : State, exec (.ldI nnn) s = .next t ∧ t.i.toNat = nnn.toNat ∧ KeepsAllBut [.index] s t)
    ∧ (∃ t : State, exec (.addI x) s = .next t ∧ t.i.toNat = (s.i.toNat + (s.reg x).toNat) % 65536
        ∧ KeepsAllBut [.index] s t)
    ∧ (∃ t : State, exec (.ldF x) s = .next t ∧ t.i.toNat = 5 * (s.reg x).toNat ∧ KeepsAllBut [.index] s t)

/-- R143. Derived: the range test is the spec's decision D2. The premise on memory is part of the invariant. -/
def Obligations.DecimalDigitsAreStored : Prop :=
  ∀ (x : Reg) (s : State), Memory.wf s.mem = true → s.dataBase + 2 ≤ 4095 → ∃ t : State,
    exec (.ldB x) s = .next t
    ∧ (t.byteAt s.dataBase).toNat = (s.reg x).toNat / 100
    ∧ (t.byteAt (s.dataBase + 1)).toNat = (s.reg x).toNat / 10 % 10
    ∧ (t.byteAt (s.dataBase + 2)).toNat = (s.reg x).toNat % 10
    ∧ KeepsBytesOutside s.dataBase 3 s t ∧ KeepsAllBut [.memory] s t

/-- R144. Derived: that I stays is the spec's decision D7, the range test D2. -/
def Obligations.BlockStoreWritesV0ToVx : Prop :=
  ∀ (x : Reg) (s : State), Memory.wf s.mem = true → s.dataBase + x.val ≤ 4095 → ∃ t : State,
    exec (.storeRegs x) s = .next t
    ∧ (∀ j : Reg, j ≤ x → t.byteAt (s.dataBase + j.val) = s.reg j)
    ∧ KeepsBytesOutside s.dataBase (x.val + 1) s t ∧ KeepsAllBut [.memory] s t

/-- R145. Derived: D7, D2. -/
def Obligations.BlockLoadReadsV0ToVx : Prop :=
  ∀ (x : Reg) (s : State), s.dataBase + x.val ≤ 4095 → ∃ t : State,
    exec (.loadRegs x) s = .next t
    ∧ (∀ j : Reg, j ≤ x → t.reg j = s.byteAt (s.dataBase + j.val))
    ∧ (∀ j : Reg, x < j → t.reg j = s.reg j) ∧ KeepsAllBut [.regs] s t

/-- R56. Derived: the spec's decision D2. The phase and the reply a raise leaves are the model's account of STEP_FRAME (log entry 4). -/
def Obligations.OutOfRangeAccessFaults : Prop :=
  ∀ (x y : Reg) (n : Nat) (s : State),
    (4095 < s.dataBase + 2 → OnlyRaises (.ldB x) s (.memRangeFault (max s.dataBase 4096)))
    ∧ (4095 < s.dataBase + x.val → OnlyRaises (.storeRegs x) s (.memRangeFault (max s.dataBase 4096)))
    ∧ (4095 < s.dataBase + x.val → OnlyRaises (.loadRegs x) s (.memRangeFault (max s.dataBase 4096)))
    ∧ (1 ≤ n → 4095 < s.dataBase + n - 1 → OnlyRaises (.drw x y n) s (.memRangeFault (max s.dataBase 4096)))

/-- R63, R60. Derived: R63 is the spec's own inference; the range test is its decision D2 (log entry 13). The premise on memory is part of the invariant. -/
def Obligations.StoreIsSeenByTheNextFetch : Prop :=
  ∀ (x : Reg) (s : State), Memory.wf s.mem = true → s.pc.toNat ≤ 4094 →
    (s.dataBase + x.val ≤ 4095 → ∃ (t u : State) (hi lo : Byte),
      exec (.storeRegs x) s = .next t ∧ t.fetch = .ok (hi ++ lo, u)
      ∧ (∀ j : Reg, j ≤ x → s.pc.toNat = s.dataBase + j.val → hi = s.reg j)
      ∧ (∀ j : Reg, j ≤ x → s.pc.toNat + 1 = s.dataBase + j.val → lo = s.reg j)
      ∧ KeptUnlessStored s s.dataBase (x.val + 1) hi lo
      ∧ u.pc.toNat = s.pc.toNat + 2 ∧ KeepsAllBut [.pc] t u)
    ∧ (s.dataBase + 2 ≤ 4095 → ∃ (t u : State) (hi lo : Byte),
      exec (.ldB x) s = .next t ∧ t.fetch = .ok (hi ++ lo, u)
      ∧ (∀ k : Nat, k < 3 → s.pc.toNat = s.dataBase + k → hi.toNat = decimalDigit (s.reg x) k)
      ∧ (∀ k : Nat, k < 3 → s.pc.toNat + 1 = s.dataBase + k → lo.toNat = decimalDigit (s.reg x) k)
      ∧ KeptUnlessStored s s.dataBase 3 hi lo
      ∧ u.pc.toNat = s.pc.toNat + 2 ∧ KeepsAllBut [.pc] t u)

/-- R150. Derived: its encoding line is DecodeOfEncodeIsTheInstruction's. -/
def Obligations.ClearDisplayTurnsEveryPixelOff : Prop :=
  ∀ s : State, ∃ t : State,
    exec .cls s = .next t ∧ (∀ (r : Fin 32) (c : Fin 64), t.pixel r c = false) ∧ KeepsAllBut [.display] s t

/-- R151 to R155: the mask and row arithmetic of the meaning against the pixels. Derived: n = 0, x or y = F and the frame are R155, the spec's own inference; the range test is its decision D2 (log entry 13). -/
def Obligations.DrawTogglesTheSpritePixels : Prop :=
  ∀ (x y : Reg) (n : Nat) (s : State), n < 16 → (n = 0 ∨ s.dataBase + n - 1 ≤ 4095) → ∃ t : State,
    exec (.drw x y n) s = .next t
    ∧ (∀ (r : Fin 32) (c : Fin 64),
        t.pixel r c ≠ s.pixel r c ↔ SpritePixel s (s.reg x).toNat (s.reg y).toNat n r c)
    ∧ (SomePixelWentOff s t → t.reg VF = 1) ∧ (¬ SomePixelWentOff s t → t.reg VF = 0)
    ∧ KeepsRegsBut VF s t ∧ KeepsAllBut [.regs, .display] s t

/-- R154. Derived: its last sentence holds as read here (log entry 10). -/
def Obligations.DrawTwiceRestoresTheDisplay : Prop :=
  ∀ (x y : Reg) (n : Nat) (s : State), x ≠ VF → y ≠ VF → n < 16 → (n = 0 ∨ s.dataBase + n - 1 ≤ 4095) →
    ∃ t u : State,
    exec (.drw x y n) s = .next t ∧ exec (.drw x y n) t = .next u ∧ u.disp = s.disp
    ∧ ((∀ r : Fin 32, s.disp.get r = 0) →
        ((∃ k : Nat, k < n ∧ s.byteAt (s.dataBase + k) ≠ 0) → u.reg VF = 1)
        ∧ ((∀ k : Nat, k < n → s.byteAt (s.dataBase + k) = 0) → u.reg VF = 0))

/-- R160, R161. Derived: their encoding lines are DecodeOfEncodeIsTheInstruction's. -/
def Obligations.KeySkipsFollowTheSnapshot : Prop :=
  ∀ (x : Reg) (s : State) (k : Fin 16), k.val = (s.reg x).toNat →
    SkipsWhen (.skp x) s (s.key.get k = true) ∧ SkipsWhen (.sknp x) s (s.key.get k = false)

/-- R160, R161. Derived: the spec's decision D3. The phase and the reply a raise leaves are the model's account of STEP_FRAME (log entry 4). -/
def Obligations.KeyNumberAbove15Faults : Prop :=
  ∀ (x : Reg) (s : State), 15 < (s.reg x).toNat →
    OnlyRaises (.skp x) s (.keyRangeFault (s.reg x)) ∧ OnlyRaises (.sknp x) s (.keyRangeFault (s.reg x))

/-- R163. Derived: its encoding line is DecodeOfEncodeIsTheInstruction's. -/
def Obligations.KeyWaitTakesTheLowestKey : Prop :=
  ∀ (x : Reg) (s : State),
    (∀ j : Fin 16, s.key.get j = true → (∀ k : Fin 16, k < j → s.key.get k = false) → ∃ t : State,
      exec (.ldVxK x) s = .next t ∧ (t.reg x).toNat = j.val ∧ KeepsRegsBut x s t ∧ KeepsAllBut [.regs] s t)
    ∧ ((∀ j : Fin 16, s.key.get j = false) → ∃ t : State,
      exec (.ldVxK x) s = .next t ∧ t.pc = s.pc - 2 ∧ KeepsAllBut [.pc] s t)

/-- R163, R242. Derived. The steps, the phase, the pending operations and the reply are the model's account of the host and of STEP_FRAME (log entry 4). -/
def Obligations.KeyWaitRunsAgain : Prop :=
  ∀ (s : State) (left : Nat) (x : Reg), s.fault = none → s.phase = .cycles (left + 1) → s.pc.toNat ≤ 4094 →
    decodeWord (s.byteAt s.pc.toNat ++ s.byteAt (s.pc.toNat + 1)) = some (.ldVxK x) →
    (∀ j : Fin 16, s.key.get j = false) →
    step s = .next (s.setPhase (.cycles left))

/-- R162, R164, R165. Derived: their encoding lines are DecodeOfEncodeIsTheInstruction's. -/
def Obligations.TimerMovesAreDirect : Prop :=
  ∀ x : Reg,
    WritesReg (.ldVxDt x) x (fun s => s.dt)
    ∧ (∀ s : State, ∃ t : State, exec (.ldDtVx x) s = .next t ∧ t.dt = s.reg x ∧ KeepsAllBut [.delay] s t)
    ∧ (∀ s : State, ∃ t : State, exec (.ldStVx x) s = .next t ∧ t.st = s.reg x ∧ KeepsAllBut [.sound] s t)

/-- R29: "read by no instruction". Derived. -/
def Obligations.SoundTimerIsReadByNoInstruction : Prop :=
  ∀ (i : Instr) (s t : State) (b : Byte), exec i s = .next t →
    ((∀ x, i ≠ .ldStVx x) → exec i (s.setSt b) = .next (t.setSt b))
    ∧ ((∃ x, i = .ldStVx x) → exec i (s.setSt b) = .next t)

/-- R37: "Only RND reads or advances `RNG`". Derived: the supply of draws is the model's (log entry 1). -/
def Obligations.OnlyRndReadsTheGenerator : Prop :=
  ∀ (i : Instr) (s t : State) (k : Nat), (∀ x kk, i ≠ .rnd x kk) → exec i s = .next t →
    t.rng = s.rng ∧ exec i { s with rng := k } = .next { t with rng := k }

/-- R41, R231, R175, R176. Derived: R41 is the spec's own inference; that LOAD is one step, the start of STEP_FRAME a second and its first cycle the third is the model's own cut (log entries 4 and 8). -/
def Obligations.FirstInstructionIsTheRomsFirstWord : Prop :=
  ∀ (rom : List Byte) (hi lo : Byte) (keys : Vector Bool 16), (hi :: lo :: rom).length ≤ 3583 → ∃ u : State,
    Host.Core.run Sys2Proof.core 2 (State.reset.setPending [.load (hi :: lo :: rom), .stepFrame keys]) = .next u
    ∧ u.fault = none ∧ u.pc = 0x200 ∧ u.key = keys
    ∧ (∀ i : Instr, decodeWord (hi ++ lo) = some i → ∃ v : State,
        step u = exec i v ∧ v.pc = 0x202 ∧ KeepsAllBut [.pc, .phase] u v)

/-- R152. `placedRow` is the mask that DRW composes into a display row. -/
def Obligations.SpriteByteIsPlacedCircularly : Prop :=
  ∀ (b : Byte) (x : Reg) (s : State),
    placedRow b (s.reg x).toNat = ((b.setWidth 64 : RowBits) <<< 56).rotateRight ((s.reg x).toNat % 64)
    ∧ (∀ j : Nat, j < 8 →
        (placedRow b (s.reg x).toNat).getLsbD (63 - ((s.reg x).toNat + j) % 64) = b.getLsbD (7 - j))
    ∧ (∀ i : Nat, (∀ j : Nat, j < 8 → i ≠ 63 - ((s.reg x).toNat + j) % 64) →
        (placedRow b (s.reg x).toNat).getLsbD i = false)

/-- R153. `State.drawn` is the display that DRW writes; `placedRow` is the mask of R152. -/
def Obligations.SpriteRowsFallOnTheirDisplayRows : Prop :=
  ∀ (x y : Reg) (n : Nat) (s : State), n < 16 →
    (∀ (r : Nat) (row : Fin 32), r < n → row.val = ((s.reg y).toNat + r) % 32 →
        (s.drawn x y n).1.get row = s.disp.get row ^^^ placedRow (s.byteAt (s.dataBase + r)) (s.reg x).toNat
        ∧ (s.reg y + BitVec.ofNat 8 r).toNat % 32 = row.val)
    ∧ (∀ r r' : Nat, r < n → r' < n → ((s.reg y).toNat + r) % 32 = ((s.reg y).toNat + r') % 32 → r = r')
    ∧ (∀ row : Fin 32, (∀ r : Nat, r < n → row.val ≠ ((s.reg y).toNat + r) % 32) →
        (s.drawn x y n).1.get row = s.disp.get row)
end

