-- ==== Sys2Proof/Laws/Decode.lean ====
section
/-! SUPPORT. The fields of a packed word, and of the bytes it is stored as. -/

namespace Sys2Proof

/-- A register number survives its 4-bit field. -/
@[simp] theorem regOfNibble_nibbleOfReg (r : Reg) : regOfNibble (nibbleOfReg r) = r := by
  apply Fin.ext
  simp only [regOfNibble, nibbleOfReg, BitVec.toNat_ofNat]
  exact Nat.mod_eq_of_lt r.isLt

/-- A 4-bit field survives as a register number. -/
@[simp] theorem nibbleOfReg_regOfNibble (b : BitVec 4) : nibbleOfReg (regOfNibble b) = b := by
  simp [regOfNibble, nibbleOfReg]

/-! ### Format A -/

@[simp] theorem fieldFamily_packA (f : BitVec 4) (nnn : BitVec 12) : fieldFamily (packA f nnn) = f := by
  ext i hi
  simp only [fieldFamily, packA, BitVec.getElem_extractLsb', BitVec.getLsbD_append]
  rw [if_neg (by omega)]
  simp [BitVec.getLsbD_eq_getElem, hi]

@[simp] theorem fieldNnn_packA (f : BitVec 4) (nnn : BitVec 12) : fieldNnn (packA f nnn) = nnn := by
  ext i hi
  simp only [fieldNnn, packA, BitVec.getElem_extractLsb', BitVec.getLsbD_append]
  rw [if_pos (by omega)]
  simp [BitVec.getLsbD_eq_getElem, hi]

/-! ### Format XK -/

@[simp] theorem fieldFamily_packXK (f : BitVec 4) (x : Reg) (kk : Byte) : fieldFamily (packXK f x kk) = f :=
  fieldFamily_packA f _

@[simp] theorem fieldX_packXK (f : BitVec 4) (x : Reg) (kk : Byte) : fieldX (packXK f x kk) = x := by
  have h : (packXK f x kk).extractLsb' 8 4 = nibbleOfReg x := by
    ext i hi
    simp only [packXK, BitVec.getElem_extractLsb', BitVec.getLsbD_append]
    rw [if_pos (by omega), if_neg (by omega)]
    simp [BitVec.getLsbD_eq_getElem, hi]
  rw [fieldX, h, regOfNibble_nibbleOfReg]

@[simp] theorem fieldKk_packXK (f : BitVec 4) (x : Reg) (kk : Byte) : fieldKk (packXK f x kk) = kk := by
  ext i hi
  simp only [fieldKk, packXK, BitVec.getElem_extractLsb', BitVec.getLsbD_append]
  rw [if_pos (by omega), if_pos (by omega)]
  simp [BitVec.getLsbD_eq_getElem, hi]

/-! ### Formats XY and XYN -/

@[simp] theorem fieldFamily_packXY (f : BitVec 4) (x y : Reg) (n : BitVec 4) : fieldFamily (packXY f x y n) = f :=
  fieldFamily_packA f _

@[simp] theorem fieldX_packXY (f : BitVec 4) (x y : Reg) (n : BitVec 4) : fieldX (packXY f x y n) = x :=
  fieldX_packXK f x _

@[simp] theorem fieldY_packXY (f : BitVec 4) (x y : Reg) (n : BitVec 4) : fieldY (packXY f x y n) = y := by
  have h : (packXY f x y n).extractLsb' 4 4 = nibbleOfReg y := by
    ext i hi
    simp only [packXY, BitVec.getElem_extractLsb', BitVec.getLsbD_append]
    rw [if_pos (by omega), if_pos (by omega), if_neg (by omega)]
    simp [BitVec.getLsbD_eq_getElem, hi]
  rw [fieldY, h, regOfNibble_nibbleOfReg]

@[simp] theorem fieldN_packXY (f : BitVec 4) (x y : Reg) (n : BitVec 4) : fieldN (packXY f x y n) = n.toNat := by
  have h : (packXY f x y n).extractLsb' 0 4 = n := by
    ext i hi
    simp only [packXY, BitVec.getElem_extractLsb', BitVec.getLsbD_append]
    rw [if_pos (by omega), if_pos (by omega), if_pos (by omega)]
    simp [BitVec.getLsbD_eq_getElem, hi]
  rw [fieldN, h]

/-! ### The fixed bits of a packed word -/

/-- Masking all but the family leaves the family. -/
theorem packA_family (f : BitVec 4) (nnn : BitVec 12) : packA f nnn &&& 0xF000 = packA f 0 := by
  apply BitVec.eq_of_getLsbD_eq
  intro i hi
  simp only [packA, BitVec.getLsbD_and, BitVec.getLsbD_append]
  interval_cases i <;> simp [BitVec.getLsbD] <;> (intro _; decide)

/-- Masking the register of format X leaves the family and the low byte. -/
theorem packXK_fixed (f : BitVec 4) (x : Reg) (kk : Byte) : packXK f x kk &&& 0xF0FF = packXK f 0 kk := by
  apply BitVec.eq_of_getLsbD_eq
  intro i hi
  simp only [packXK, BitVec.getLsbD_and, BitVec.getLsbD_append]
  interval_cases i <;> simp [BitVec.getLsbD, nibbleOfReg] <;> (intro _; decide)

/-- Masking the registers of format XY leaves the family and the low nibble. -/
theorem packXY_fixed (f : BitVec 4) (x y : Reg) (n : BitVec 4) : packXY f x y n &&& 0xF00F = packXY f 0 0 n := by
  apply BitVec.eq_of_getLsbD_eq
  intro i hi
  simp only [packXY, BitVec.getLsbD_and, BitVec.getLsbD_append]
  interval_cases i <;> simp [BitVec.getLsbD, nibbleOfReg] <;> (intro _; decide)

/-! ### Bytes -/

/-- A word is read back from its two bytes, the high one first (R50). -/
@[simp] theorem wordOfBytes_bytes (op : Word) : wordOfBytes (highByte op) (lowByte op) = op := by
  ext i hi
  rw [← BitVec.getLsbD_eq_getElem, wordOfBytes, BitVec.getLsbD_append]
  split
  · next h => simp [lowByte, h, BitVec.getLsbD_eq_getElem, hi]
  · next h =>
    simp [highByte, show i - 8 < 8 by omega, show 8 + (i - 8) = i by omega, BitVec.getLsbD_eq_getElem, hi]

/-- What the byte decoder says of two bytes or more. -/
theorem decode_cons_cons (hi lo : Byte) (rest : List Byte) :
    decode (hi :: lo :: rest) =
      match decodeWord (wordOfBytes hi lo) with
      | some i => .ok (i, rest)
      | none => .error (.unsupportedOpcode (wordOfBytes hi lo)) := rfl

end Sys2Proof
end

