-- ==== Sys2Proof/Laws/Memory.lean ====
section
/-! SUPPORT. The laws of memory: what a read gives after a write, and that every write keeps the canonical form. -/

namespace Sys2Proof.Machine

/-! ### Reading after writing -/

/-- A cell in front answers for its own address; the rest answers for the others. -/
theorem Memory.readByte_consCell (a : Nat) (b : Byte) (m : Memory) (k : Nat)
    (h : k = a → Memory.readByte m a = initialByte a) :
    Memory.readByte (Memory.consCell a b m) k = if k = a then b else Memory.readByte m k := by
  unfold Memory.consCell
  split
  · next hb =>
    split
    · next hk => subst hk; rw [h rfl, hb]
    · rfl
  · simp only [Memory.readByte]

/-- Below the first address a canonical memory may list, every address reads as unlisted. -/
theorem Memory.readByte_below {lo : Nat} {m : Memory} (h : Memory.wfFrom lo m = true) {k : Nat} (hk : k < lo) :
    Memory.readByte m k = initialByte k := by
  induction m generalizing lo with
  | nil => rfl
  | cons c m ih =>
    obtain ⟨a, b⟩ := c
    simp only [Memory.wfFrom, Bool.and_eq_true, decide_eq_true_eq] at h
    have hne : k ≠ a := by omega
    simp only [Memory.readByte, if_neg hne]
    exact ih h.2 (by omega)

/-- A canonical memory from a higher address is one from a lower address. -/
theorem Memory.wfFrom_mono {lo lo' : Nat} {m : Memory} (h : Memory.wfFrom lo m = true) (hle : lo' ≤ lo) :
    Memory.wfFrom lo' m = true := by
  cases m with
  | nil => rfl
  | cons c m =>
    simp only [Memory.wfFrom, Bool.and_eq_true, decide_eq_true_eq] at h ⊢
    exact ⟨⟨⟨by omega, h.1.1.2⟩, h.1.2⟩, h.2⟩

/-- Read after write, for one byte of a canonical memory. -/
theorem Memory.readByte_writeByte_from {lo : Nat} {m : Memory} (h : Memory.wfFrom lo m = true) (a : Nat) (b : Byte)
    (k : Nat) : Memory.readByte (Memory.writeByte m a b) k = if k = a then b else Memory.readByte m k := by
  induction m generalizing lo with
  | nil => exact Memory.readByte_consCell a b [] k (fun _ => rfl)
  | cons c m ih =>
    obtain ⟨a', b'⟩ := c
    have h0 := h
    simp only [Memory.wfFrom, Bool.and_eq_true, decide_eq_true_eq] at h
    unfold Memory.writeByte
    split
    · next hlt =>
      refine Memory.readByte_consCell a b _ k (fun _ => ?_)
      have hw : Memory.wfFrom a' ((a', b') :: m) = true := by
        simp only [Memory.wfFrom, Bool.and_eq_true, decide_eq_true_eq]
        exact ⟨⟨⟨Nat.le_refl _, h.1.1.2⟩, h.1.2⟩, h.2⟩
      exact Memory.readByte_below hw hlt
    · split
      · next heq =>
        subst heq
        rw [Memory.readByte_consCell a b m k (fun _ => Memory.readByte_below h.2 (Nat.lt_succ_self a))]
        by_cases hk : k = a <;> simp [Memory.readByte, hk]
      · next hge hne =>
        simp only [Memory.readByte]
        split
        · next hk => subst hk; rw [if_neg (fun e => hne e.symm)]
        · exact ih h.2

/-- Read after write, for one byte. -/
theorem Memory.readByte_writeByte {m : Memory} (h : Memory.wf m = true) (a : Nat) (b : Byte) (k : Nat) :
    Memory.readByte (Memory.writeByte m a b) k = if k = a then b else Memory.readByte m k :=
  Memory.readByte_writeByte_from h a b k

/-! ### Keeping the canonical form -/

/-- A cell in front of a canonical memory of higher addresses. -/
theorem Memory.wfFrom_consCell {lo a : Nat} (b : Byte) {m : Memory} (h : Memory.wfFrom (a + 1) m = true)
    (hlo : lo ≤ a) (ha : a < Config.memSize) : Memory.wfFrom lo (Memory.consCell a b m) = true := by
  unfold Memory.consCell
  split
  · exact Memory.wfFrom_mono h (by omega)
  · next hb =>
    simp only [Memory.wfFrom, Bool.and_eq_true, decide_eq_true_eq]
    exact ⟨⟨⟨hlo, ha⟩, hb⟩, h⟩

/-- Writing one byte at an address that exists keeps the canonical form. -/
theorem Memory.wfFrom_writeByte {lo : Nat} {m : Memory} (h : Memory.wfFrom lo m = true) {a : Nat} (b : Byte)
    (hlo : lo ≤ a) (ha : a < Config.memSize) : Memory.wfFrom lo (Memory.writeByte m a b) = true := by
  induction m generalizing lo with
  | nil => exact Memory.wfFrom_consCell b rfl hlo ha
  | cons c m ih =>
    obtain ⟨a', b'⟩ := c
    simp only [Memory.wfFrom, Bool.and_eq_true, decide_eq_true_eq] at h
    unfold Memory.writeByte
    split
    · next hlt =>
      refine Memory.wfFrom_consCell b ?_ hlo ha
      simp only [Memory.wfFrom, Bool.and_eq_true, decide_eq_true_eq]
      exact ⟨⟨⟨by omega, h.1.1.2⟩, h.1.2⟩, h.2⟩
    · split
      · next heq => subst heq; exact Memory.wfFrom_consCell b h.2 hlo ha
      · next hge hne =>
        simp only [Memory.wfFrom, Bool.and_eq_true, decide_eq_true_eq]
        exact ⟨⟨h.1.1, h.1.2⟩, ih h.2 (by omega)⟩

/-- Writing one byte keeps the canonical form. -/
theorem Memory.wf_writeByte {m : Memory} (h : Memory.wf m = true) {a : Nat} (b : Byte) (ha : a < Config.memSize) :
    Memory.wf (Memory.writeByte m a b) = true :=
  Memory.wfFrom_writeByte h b (Nat.zero_le a) ha

/-- Writing bytes that all fit keeps the canonical form. -/
theorem Memory.wf_writeBytes {m : Memory} (h : Memory.wf m = true) {a : Nat} {bs : List Byte}
    (ha : a + bs.length ≤ Config.memSize) : Memory.wf (Memory.writeBytes m a bs) = true := by
  induction bs generalizing m a with
  | nil => exact h
  | cons b bs ih =>
    simp only [List.length_cons] at ha
    exact ih (Memory.wf_writeByte h b (by omega)) (by omega)

/-- Read after writing bytes that all fit: the byte written there, or what was there before. -/
theorem Memory.readByte_writeBytes {m : Memory} (h : Memory.wf m = true) {a : Nat} {bs : List Byte}
    (ha : a + bs.length ≤ Config.memSize) (k : Nat) :
    Memory.readByte (Memory.writeBytes m a bs) k =
      if a ≤ k ∧ k < a + bs.length then bs.getD (k - a) 0 else Memory.readByte m k := by
  induction bs generalizing m a with
  | nil => simp only [Memory.writeBytes, List.length_nil]; rw [if_neg (by omega)]
  | cons b bs ih =>
    simp only [List.length_cons] at ha ⊢
    rw [Memory.writeBytes, ih (Memory.wf_writeByte h b (by omega)) (by omega), Memory.readByte_writeByte h]
    by_cases hk : k = a
    · subst hk
      rw [if_neg (by omega), if_pos rfl, if_pos (by omega), Nat.sub_self]
      rfl
    · rw [if_neg hk]
      by_cases hr : a + 1 ≤ k ∧ k < a + 1 + bs.length
      · rw [if_pos hr, if_pos (by omega)]
        obtain ⟨d, hd⟩ : ∃ d, k - a = d + 1 := ⟨k - a - 1, by omega⟩
        rw [hd, show k - (a + 1) = d by omega, List.getD_cons_succ]
      · rw [if_neg hr, if_neg (by omega)]

/-- The bytes read are as many as asked for. -/
@[simp] theorem Memory.readBytes_length (m : Memory) (a n : Nat) : (Memory.readBytes m a n).length = n := by
  simp [Memory.readBytes]

/-- Each byte read is the byte of its address. -/
theorem Memory.readBytes_getD (m : Memory) (a : Nat) {n k : Nat} (h : k < n) :
    (Memory.readBytes m a n).getD k 0 = Memory.readByte m (a + k) := by
  simp [Memory.readBytes, List.getD, h]

/-- What an unlisted address beyond the font reads as: 0 (R40, R57). -/
theorem initialByte_beyond_font {a : Nat} (h : 80 ≤ a) : initialByte a = 0 := by
  exact dif_neg (by omega)

/-- Memory after reset, which lists nothing, has the canonical form (R57). -/
theorem Memory.wf_reset : Memory.wf State.reset.mem = true := rfl

end Sys2Proof.Machine
end

