-- ==== Sys2Proof/Laws/State.lean ====
section
/-! SUPPORT. One lemma per field of State per named update, each true by unfolding, and the register file read back
through `State.reg`. -/

namespace Sys2Proof.Machine

/-! ### `s.setReg x b` -/

@[simp] theorem State.setReg_v (s : State) (x : Reg) (b : Byte) : (s.setReg x b).v = s.v.set x.val b x.isLt := rfl
@[simp] theorem State.setReg_i (s : State) (x : Reg) (b : Byte) : (s.setReg x b).i = s.i := rfl
@[simp] theorem State.setReg_pc (s : State) (x : Reg) (b : Byte) : (s.setReg x b).pc = s.pc := rfl
@[simp] theorem State.setReg_sp (s : State) (x : Reg) (b : Byte) : (s.setReg x b).sp = s.sp := rfl
@[simp] theorem State.setReg_stack (s : State) (x : Reg) (b : Byte) : (s.setReg x b).stack = s.stack := rfl
@[simp] theorem State.setReg_dt (s : State) (x : Reg) (b : Byte) : (s.setReg x b).dt = s.dt := rfl
@[simp] theorem State.setReg_st (s : State) (x : Reg) (b : Byte) : (s.setReg x b).st = s.st := rfl
@[simp] theorem State.setReg_key (s : State) (x : Reg) (b : Byte) : (s.setReg x b).key = s.key := rfl
@[simp] theorem State.setReg_disp (s : State) (x : Reg) (b : Byte) : (s.setReg x b).disp = s.disp := rfl
@[simp] theorem State.setReg_mem (s : State) (x : Reg) (b : Byte) : (s.setReg x b).mem = s.mem := rfl
@[simp] theorem State.setReg_sndGate (s : State) (x : Reg) (b : Byte) : (s.setReg x b).sndGate = s.sndGate := rfl
@[simp] theorem State.setReg_fault (s : State) (x : Reg) (b : Byte) : (s.setReg x b).fault = s.fault := rfl
@[simp] theorem State.setReg_rng (s : State) (x : Reg) (b : Byte) : (s.setReg x b).rng = s.rng := rfl
@[simp] theorem State.setReg_phase (s : State) (x : Reg) (b : Byte) : (s.setReg x b).phase = s.phase := rfl
@[simp] theorem State.setReg_pending (s : State) (x : Reg) (b : Byte) : (s.setReg x b).pending = s.pending := rfl
@[simp] theorem State.setReg_reply (s : State) (x : Reg) (b : Byte) : (s.setReg x b).reply = s.reply := rfl

/-! ### `s.setRegs w` -/

@[simp] theorem State.setRegs_v (s : State) (w : Vector Byte 16) : (s.setRegs w).v = w := rfl
@[simp] theorem State.setRegs_i (s : State) (w : Vector Byte 16) : (s.setRegs w).i = s.i := rfl
@[simp] theorem State.setRegs_pc (s : State) (w : Vector Byte 16) : (s.setRegs w).pc = s.pc := rfl
@[simp] theorem State.setRegs_sp (s : State) (w : Vector Byte 16) : (s.setRegs w).sp = s.sp := rfl
@[simp] theorem State.setRegs_stack (s : State) (w : Vector Byte 16) : (s.setRegs w).stack = s.stack := rfl
@[simp] theorem State.setRegs_dt (s : State) (w : Vector Byte 16) : (s.setRegs w).dt = s.dt := rfl
@[simp] theorem State.setRegs_st (s : State) (w : Vector Byte 16) : (s.setRegs w).st = s.st := rfl
@[simp] theorem State.setRegs_key (s : State) (w : Vector Byte 16) : (s.setRegs w).key = s.key := rfl
@[simp] theorem State.setRegs_disp (s : State) (w : Vector Byte 16) : (s.setRegs w).disp = s.disp := rfl
@[simp] theorem State.setRegs_mem (s : State) (w : Vector Byte 16) : (s.setRegs w).mem = s.mem := rfl
@[simp] theorem State.setRegs_sndGate (s : State) (w : Vector Byte 16) : (s.setRegs w).sndGate = s.sndGate := rfl
@[simp] theorem State.setRegs_fault (s : State) (w : Vector Byte 16) : (s.setRegs w).fault = s.fault := rfl
@[simp] theorem State.setRegs_rng (s : State) (w : Vector Byte 16) : (s.setRegs w).rng = s.rng := rfl
@[simp] theorem State.setRegs_phase (s : State) (w : Vector Byte 16) : (s.setRegs w).phase = s.phase := rfl
@[simp] theorem State.setRegs_pending (s : State) (w : Vector Byte 16) : (s.setRegs w).pending = s.pending := rfl
@[simp] theorem State.setRegs_reply (s : State) (w : Vector Byte 16) : (s.setRegs w).reply = s.reply := rfl

/-! ### `s.setI w` -/

@[simp] theorem State.setI_v (s : State) (w : Word) : (s.setI w).v = s.v := rfl
@[simp] theorem State.setI_i (s : State) (w : Word) : (s.setI w).i = w := rfl
@[simp] theorem State.setI_pc (s : State) (w : Word) : (s.setI w).pc = s.pc := rfl
@[simp] theorem State.setI_sp (s : State) (w : Word) : (s.setI w).sp = s.sp := rfl
@[simp] theorem State.setI_stack (s : State) (w : Word) : (s.setI w).stack = s.stack := rfl
@[simp] theorem State.setI_dt (s : State) (w : Word) : (s.setI w).dt = s.dt := rfl
@[simp] theorem State.setI_st (s : State) (w : Word) : (s.setI w).st = s.st := rfl
@[simp] theorem State.setI_key (s : State) (w : Word) : (s.setI w).key = s.key := rfl
@[simp] theorem State.setI_disp (s : State) (w : Word) : (s.setI w).disp = s.disp := rfl
@[simp] theorem State.setI_mem (s : State) (w : Word) : (s.setI w).mem = s.mem := rfl
@[simp] theorem State.setI_sndGate (s : State) (w : Word) : (s.setI w).sndGate = s.sndGate := rfl
@[simp] theorem State.setI_fault (s : State) (w : Word) : (s.setI w).fault = s.fault := rfl
@[simp] theorem State.setI_rng (s : State) (w : Word) : (s.setI w).rng = s.rng := rfl
@[simp] theorem State.setI_phase (s : State) (w : Word) : (s.setI w).phase = s.phase := rfl
@[simp] theorem State.setI_pending (s : State) (w : Word) : (s.setI w).pending = s.pending := rfl
@[simp] theorem State.setI_reply (s : State) (w : Word) : (s.setI w).reply = s.reply := rfl

/-! ### `s.setPc w` -/

@[simp] theorem State.setPc_v (s : State) (w : Word) : (s.setPc w).v = s.v := rfl
@[simp] theorem State.setPc_i (s : State) (w : Word) : (s.setPc w).i = s.i := rfl
@[simp] theorem State.setPc_pc (s : State) (w : Word) : (s.setPc w).pc = w := rfl
@[simp] theorem State.setPc_sp (s : State) (w : Word) : (s.setPc w).sp = s.sp := rfl
@[simp] theorem State.setPc_stack (s : State) (w : Word) : (s.setPc w).stack = s.stack := rfl
@[simp] theorem State.setPc_dt (s : State) (w : Word) : (s.setPc w).dt = s.dt := rfl
@[simp] theorem State.setPc_st (s : State) (w : Word) : (s.setPc w).st = s.st := rfl
@[simp] theorem State.setPc_key (s : State) (w : Word) : (s.setPc w).key = s.key := rfl
@[simp] theorem State.setPc_disp (s : State) (w : Word) : (s.setPc w).disp = s.disp := rfl
@[simp] theorem State.setPc_mem (s : State) (w : Word) : (s.setPc w).mem = s.mem := rfl
@[simp] theorem State.setPc_sndGate (s : State) (w : Word) : (s.setPc w).sndGate = s.sndGate := rfl
@[simp] theorem State.setPc_fault (s : State) (w : Word) : (s.setPc w).fault = s.fault := rfl
@[simp] theorem State.setPc_rng (s : State) (w : Word) : (s.setPc w).rng = s.rng := rfl
@[simp] theorem State.setPc_phase (s : State) (w : Word) : (s.setPc w).phase = s.phase := rfl
@[simp] theorem State.setPc_pending (s : State) (w : Word) : (s.setPc w).pending = s.pending := rfl
@[simp] theorem State.setPc_reply (s : State) (w : Word) : (s.setPc w).reply = s.reply := rfl

/-! ### `s.setStack sp e` -/

@[simp] theorem State.setStack_v (s : State) (sp : Fin 17) (e : Vector Word 16) : (s.setStack sp e).v = s.v := rfl
@[simp] theorem State.setStack_i (s : State) (sp : Fin 17) (e : Vector Word 16) : (s.setStack sp e).i = s.i := rfl
@[simp] theorem State.setStack_pc (s : State) (sp : Fin 17) (e : Vector Word 16) : (s.setStack sp e).pc = s.pc := rfl
@[simp] theorem State.setStack_sp (s : State) (sp : Fin 17) (e : Vector Word 16) : (s.setStack sp e).sp = sp := rfl
@[simp] theorem State.setStack_stack (s : State) (sp : Fin 17) (e : Vector Word 16) : (s.setStack sp e).stack = e := rfl
@[simp] theorem State.setStack_dt (s : State) (sp : Fin 17) (e : Vector Word 16) : (s.setStack sp e).dt = s.dt := rfl
@[simp] theorem State.setStack_st (s : State) (sp : Fin 17) (e : Vector Word 16) : (s.setStack sp e).st = s.st := rfl
@[simp] theorem State.setStack_key (s : State) (sp : Fin 17) (e : Vector Word 16) : (s.setStack sp e).key = s.key := rfl
@[simp] theorem State.setStack_disp (s : State) (sp : Fin 17) (e : Vector Word 16) : (s.setStack sp e).disp = s.disp := rfl
@[simp] theorem State.setStack_mem (s : State) (sp : Fin 17) (e : Vector Word 16) : (s.setStack sp e).mem = s.mem := rfl
@[simp] theorem State.setStack_sndGate (s : State) (sp : Fin 17) (e : Vector Word 16) : (s.setStack sp e).sndGate = s.sndGate := rfl
@[simp] theorem State.setStack_fault (s : State) (sp : Fin 17) (e : Vector Word 16) : (s.setStack sp e).fault = s.fault := rfl
@[simp] theorem State.setStack_rng (s : State) (sp : Fin 17) (e : Vector Word 16) : (s.setStack sp e).rng = s.rng := rfl
@[simp] theorem State.setStack_phase (s : State) (sp : Fin 17) (e : Vector Word 16) : (s.setStack sp e).phase = s.phase := rfl
@[simp] theorem State.setStack_pending (s : State) (sp : Fin 17) (e : Vector Word 16) : (s.setStack sp e).pending = s.pending := rfl
@[simp] theorem State.setStack_reply (s : State) (sp : Fin 17) (e : Vector Word 16) : (s.setStack sp e).reply = s.reply := rfl

/-! ### `s.setDt b` -/

@[simp] theorem State.setDt_v (s : State) (b : Byte) : (s.setDt b).v = s.v := rfl
@[simp] theorem State.setDt_i (s : State) (b : Byte) : (s.setDt b).i = s.i := rfl
@[simp] theorem State.setDt_pc (s : State) (b : Byte) : (s.setDt b).pc = s.pc := rfl
@[simp] theorem State.setDt_sp (s : State) (b : Byte) : (s.setDt b).sp = s.sp := rfl
@[simp] theorem State.setDt_stack (s : State) (b : Byte) : (s.setDt b).stack = s.stack := rfl
@[simp] theorem State.setDt_dt (s : State) (b : Byte) : (s.setDt b).dt = b := rfl
@[simp] theorem State.setDt_st (s : State) (b : Byte) : (s.setDt b).st = s.st := rfl
@[simp] theorem State.setDt_key (s : State) (b : Byte) : (s.setDt b).key = s.key := rfl
@[simp] theorem State.setDt_disp (s : State) (b : Byte) : (s.setDt b).disp = s.disp := rfl
@[simp] theorem State.setDt_mem (s : State) (b : Byte) : (s.setDt b).mem = s.mem := rfl
@[simp] theorem State.setDt_sndGate (s : State) (b : Byte) : (s.setDt b).sndGate = s.sndGate := rfl
@[simp] theorem State.setDt_fault (s : State) (b : Byte) : (s.setDt b).fault = s.fault := rfl
@[simp] theorem State.setDt_rng (s : State) (b : Byte) : (s.setDt b).rng = s.rng := rfl
@[simp] theorem State.setDt_phase (s : State) (b : Byte) : (s.setDt b).phase = s.phase := rfl
@[simp] theorem State.setDt_pending (s : State) (b : Byte) : (s.setDt b).pending = s.pending := rfl
@[simp] theorem State.setDt_reply (s : State) (b : Byte) : (s.setDt b).reply = s.reply := rfl

/-! ### `s.setSt b` -/

@[simp] theorem State.setSt_v (s : State) (b : Byte) : (s.setSt b).v = s.v := rfl
@[simp] theorem State.setSt_i (s : State) (b : Byte) : (s.setSt b).i = s.i := rfl
@[simp] theorem State.setSt_pc (s : State) (b : Byte) : (s.setSt b).pc = s.pc := rfl
@[simp] theorem State.setSt_sp (s : State) (b : Byte) : (s.setSt b).sp = s.sp := rfl
@[simp] theorem State.setSt_stack (s : State) (b : Byte) : (s.setSt b).stack = s.stack := rfl
@[simp] theorem State.setSt_dt (s : State) (b : Byte) : (s.setSt b).dt = s.dt := rfl
@[simp] theorem State.setSt_st (s : State) (b : Byte) : (s.setSt b).st = b := rfl
@[simp] theorem State.setSt_key (s : State) (b : Byte) : (s.setSt b).key = s.key := rfl
@[simp] theorem State.setSt_disp (s : State) (b : Byte) : (s.setSt b).disp = s.disp := rfl
@[simp] theorem State.setSt_mem (s : State) (b : Byte) : (s.setSt b).mem = s.mem := rfl
@[simp] theorem State.setSt_sndGate (s : State) (b : Byte) : (s.setSt b).sndGate = s.sndGate := rfl
@[simp] theorem State.setSt_fault (s : State) (b : Byte) : (s.setSt b).fault = s.fault := rfl
@[simp] theorem State.setSt_rng (s : State) (b : Byte) : (s.setSt b).rng = s.rng := rfl
@[simp] theorem State.setSt_phase (s : State) (b : Byte) : (s.setSt b).phase = s.phase := rfl
@[simp] theorem State.setSt_pending (s : State) (b : Byte) : (s.setSt b).pending = s.pending := rfl
@[simp] theorem State.setSt_reply (s : State) (b : Byte) : (s.setSt b).reply = s.reply := rfl

/-! ### `s.setDisp d` -/

@[simp] theorem State.setDisp_v (s : State) (d : Vector RowBits 32) : (s.setDisp d).v = s.v := rfl
@[simp] theorem State.setDisp_i (s : State) (d : Vector RowBits 32) : (s.setDisp d).i = s.i := rfl
@[simp] theorem State.setDisp_pc (s : State) (d : Vector RowBits 32) : (s.setDisp d).pc = s.pc := rfl
@[simp] theorem State.setDisp_sp (s : State) (d : Vector RowBits 32) : (s.setDisp d).sp = s.sp := rfl
@[simp] theorem State.setDisp_stack (s : State) (d : Vector RowBits 32) : (s.setDisp d).stack = s.stack := rfl
@[simp] theorem State.setDisp_dt (s : State) (d : Vector RowBits 32) : (s.setDisp d).dt = s.dt := rfl
@[simp] theorem State.setDisp_st (s : State) (d : Vector RowBits 32) : (s.setDisp d).st = s.st := rfl
@[simp] theorem State.setDisp_key (s : State) (d : Vector RowBits 32) : (s.setDisp d).key = s.key := rfl
@[simp] theorem State.setDisp_disp (s : State) (d : Vector RowBits 32) : (s.setDisp d).disp = d := rfl
@[simp] theorem State.setDisp_mem (s : State) (d : Vector RowBits 32) : (s.setDisp d).mem = s.mem := rfl
@[simp] theorem State.setDisp_sndGate (s : State) (d : Vector RowBits 32) : (s.setDisp d).sndGate = s.sndGate := rfl
@[simp] theorem State.setDisp_fault (s : State) (d : Vector RowBits 32) : (s.setDisp d).fault = s.fault := rfl
@[simp] theorem State.setDisp_rng (s : State) (d : Vector RowBits 32) : (s.setDisp d).rng = s.rng := rfl
@[simp] theorem State.setDisp_phase (s : State) (d : Vector RowBits 32) : (s.setDisp d).phase = s.phase := rfl
@[simp] theorem State.setDisp_pending (s : State) (d : Vector RowBits 32) : (s.setDisp d).pending = s.pending := rfl
@[simp] theorem State.setDisp_reply (s : State) (d : Vector RowBits 32) : (s.setDisp d).reply = s.reply := rfl

/-! ### `s.storeBytes a bs` -/

@[simp] theorem State.storeBytes_v (s : State) (a : Nat) (bs : List Byte) : (s.storeBytes a bs).v = s.v := rfl
@[simp] theorem State.storeBytes_i (s : State) (a : Nat) (bs : List Byte) : (s.storeBytes a bs).i = s.i := rfl
@[simp] theorem State.storeBytes_pc (s : State) (a : Nat) (bs : List Byte) : (s.storeBytes a bs).pc = s.pc := rfl
@[simp] theorem State.storeBytes_sp (s : State) (a : Nat) (bs : List Byte) : (s.storeBytes a bs).sp = s.sp := rfl
@[simp] theorem State.storeBytes_stack (s : State) (a : Nat) (bs : List Byte) : (s.storeBytes a bs).stack = s.stack := rfl
@[simp] theorem State.storeBytes_dt (s : State) (a : Nat) (bs : List Byte) : (s.storeBytes a bs).dt = s.dt := rfl
@[simp] theorem State.storeBytes_st (s : State) (a : Nat) (bs : List Byte) : (s.storeBytes a bs).st = s.st := rfl
@[simp] theorem State.storeBytes_key (s : State) (a : Nat) (bs : List Byte) : (s.storeBytes a bs).key = s.key := rfl
@[simp] theorem State.storeBytes_disp (s : State) (a : Nat) (bs : List Byte) : (s.storeBytes a bs).disp = s.disp := rfl
@[simp] theorem State.storeBytes_mem (s : State) (a : Nat) (bs : List Byte) : (s.storeBytes a bs).mem = Memory.writeBytes s.mem a bs := rfl
@[simp] theorem State.storeBytes_sndGate (s : State) (a : Nat) (bs : List Byte) : (s.storeBytes a bs).sndGate = s.sndGate := rfl
@[simp] theorem State.storeBytes_fault (s : State) (a : Nat) (bs : List Byte) : (s.storeBytes a bs).fault = s.fault := rfl
@[simp] theorem State.storeBytes_rng (s : State) (a : Nat) (bs : List Byte) : (s.storeBytes a bs).rng = s.rng := rfl
@[simp] theorem State.storeBytes_phase (s : State) (a : Nat) (bs : List Byte) : (s.storeBytes a bs).phase = s.phase := rfl
@[simp] theorem State.storeBytes_pending (s : State) (a : Nat) (bs : List Byte) : (s.storeBytes a bs).pending = s.pending := rfl
@[simp] theorem State.storeBytes_reply (s : State) (a : Nat) (bs : List Byte) : (s.storeBytes a bs).reply = s.reply := rfl

/-! ### `s.setPhase p` -/

@[simp] theorem State.setPhase_v (s : State) (p : Phase) : (s.setPhase p).v = s.v := rfl
@[simp] theorem State.setPhase_i (s : State) (p : Phase) : (s.setPhase p).i = s.i := rfl
@[simp] theorem State.setPhase_pc (s : State) (p : Phase) : (s.setPhase p).pc = s.pc := rfl
@[simp] theorem State.setPhase_sp (s : State) (p : Phase) : (s.setPhase p).sp = s.sp := rfl
@[simp] theorem State.setPhase_stack (s : State) (p : Phase) : (s.setPhase p).stack = s.stack := rfl
@[simp] theorem State.setPhase_dt (s : State) (p : Phase) : (s.setPhase p).dt = s.dt := rfl
@[simp] theorem State.setPhase_st (s : State) (p : Phase) : (s.setPhase p).st = s.st := rfl
@[simp] theorem State.setPhase_key (s : State) (p : Phase) : (s.setPhase p).key = s.key := rfl
@[simp] theorem State.setPhase_disp (s : State) (p : Phase) : (s.setPhase p).disp = s.disp := rfl
@[simp] theorem State.setPhase_mem (s : State) (p : Phase) : (s.setPhase p).mem = s.mem := rfl
@[simp] theorem State.setPhase_sndGate (s : State) (p : Phase) : (s.setPhase p).sndGate = s.sndGate := rfl
@[simp] theorem State.setPhase_fault (s : State) (p : Phase) : (s.setPhase p).fault = s.fault := rfl
@[simp] theorem State.setPhase_rng (s : State) (p : Phase) : (s.setPhase p).rng = s.rng := rfl
@[simp] theorem State.setPhase_phase (s : State) (p : Phase) : (s.setPhase p).phase = p := rfl
@[simp] theorem State.setPhase_pending (s : State) (p : Phase) : (s.setPhase p).pending = s.pending := rfl
@[simp] theorem State.setPhase_reply (s : State) (p : Phase) : (s.setPhase p).reply = s.reply := rfl

/-! ### `s.setPending ops` -/

@[simp] theorem State.setPending_v (s : State) (ops : List HostOp) : (s.setPending ops).v = s.v := rfl
@[simp] theorem State.setPending_i (s : State) (ops : List HostOp) : (s.setPending ops).i = s.i := rfl
@[simp] theorem State.setPending_pc (s : State) (ops : List HostOp) : (s.setPending ops).pc = s.pc := rfl
@[simp] theorem State.setPending_sp (s : State) (ops : List HostOp) : (s.setPending ops).sp = s.sp := rfl
@[simp] theorem State.setPending_stack (s : State) (ops : List HostOp) : (s.setPending ops).stack = s.stack := rfl
@[simp] theorem State.setPending_dt (s : State) (ops : List HostOp) : (s.setPending ops).dt = s.dt := rfl
@[simp] theorem State.setPending_st (s : State) (ops : List HostOp) : (s.setPending ops).st = s.st := rfl
@[simp] theorem State.setPending_key (s : State) (ops : List HostOp) : (s.setPending ops).key = s.key := rfl
@[simp] theorem State.setPending_disp (s : State) (ops : List HostOp) : (s.setPending ops).disp = s.disp := rfl
@[simp] theorem State.setPending_mem (s : State) (ops : List HostOp) : (s.setPending ops).mem = s.mem := rfl
@[simp] theorem State.setPending_sndGate (s : State) (ops : List HostOp) : (s.setPending ops).sndGate = s.sndGate := rfl
@[simp] theorem State.setPending_fault (s : State) (ops : List HostOp) : (s.setPending ops).fault = s.fault := rfl
@[simp] theorem State.setPending_rng (s : State) (ops : List HostOp) : (s.setPending ops).rng = s.rng := rfl
@[simp] theorem State.setPending_phase (s : State) (ops : List HostOp) : (s.setPending ops).phase = s.phase := rfl
@[simp] theorem State.setPending_pending (s : State) (ops : List HostOp) : (s.setPending ops).pending = ops := rfl
@[simp] theorem State.setPending_reply (s : State) (ops : List HostOp) : (s.setPending ops).reply = s.reply := rfl

/-! ### `s.setReply r` -/

@[simp] theorem State.setReply_v (s : State) (r : Option Reply) : (s.setReply r).v = s.v := rfl
@[simp] theorem State.setReply_i (s : State) (r : Option Reply) : (s.setReply r).i = s.i := rfl
@[simp] theorem State.setReply_pc (s : State) (r : Option Reply) : (s.setReply r).pc = s.pc := rfl
@[simp] theorem State.setReply_sp (s : State) (r : Option Reply) : (s.setReply r).sp = s.sp := rfl
@[simp] theorem State.setReply_stack (s : State) (r : Option Reply) : (s.setReply r).stack = s.stack := rfl
@[simp] theorem State.setReply_dt (s : State) (r : Option Reply) : (s.setReply r).dt = s.dt := rfl
@[simp] theorem State.setReply_st (s : State) (r : Option Reply) : (s.setReply r).st = s.st := rfl
@[simp] theorem State.setReply_key (s : State) (r : Option Reply) : (s.setReply r).key = s.key := rfl
@[simp] theorem State.setReply_disp (s : State) (r : Option Reply) : (s.setReply r).disp = s.disp := rfl
@[simp] theorem State.setReply_mem (s : State) (r : Option Reply) : (s.setReply r).mem = s.mem := rfl
@[simp] theorem State.setReply_sndGate (s : State) (r : Option Reply) : (s.setReply r).sndGate = s.sndGate := rfl
@[simp] theorem State.setReply_fault (s : State) (r : Option Reply) : (s.setReply r).fault = s.fault := rfl
@[simp] theorem State.setReply_rng (s : State) (r : Option Reply) : (s.setReply r).rng = s.rng := rfl
@[simp] theorem State.setReply_phase (s : State) (r : Option Reply) : (s.setReply r).phase = s.phase := rfl
@[simp] theorem State.setReply_pending (s : State) (r : Option Reply) : (s.setReply r).pending = s.pending := rfl
@[simp] theorem State.setReply_reply (s : State) (r : Option Reply) : (s.setReply r).reply = r := rfl

/-! ### `s.raise f` -/

@[simp] theorem State.raise_v (s : State) (f : Fault) : (s.raise f).v = s.v := rfl
@[simp] theorem State.raise_i (s : State) (f : Fault) : (s.raise f).i = s.i := rfl
@[simp] theorem State.raise_pc (s : State) (f : Fault) : (s.raise f).pc = s.pc := rfl
@[simp] theorem State.raise_sp (s : State) (f : Fault) : (s.raise f).sp = s.sp := rfl
@[simp] theorem State.raise_stack (s : State) (f : Fault) : (s.raise f).stack = s.stack := rfl
@[simp] theorem State.raise_dt (s : State) (f : Fault) : (s.raise f).dt = s.dt := rfl
@[simp] theorem State.raise_st (s : State) (f : Fault) : (s.raise f).st = s.st := rfl
@[simp] theorem State.raise_key (s : State) (f : Fault) : (s.raise f).key = s.key := rfl
@[simp] theorem State.raise_disp (s : State) (f : Fault) : (s.raise f).disp = s.disp := rfl
@[simp] theorem State.raise_mem (s : State) (f : Fault) : (s.raise f).mem = s.mem := rfl
@[simp] theorem State.raise_sndGate (s : State) (f : Fault) : (s.raise f).sndGate = s.sndGate := rfl
@[simp] theorem State.raise_fault (s : State) (f : Fault) : (s.raise f).fault = some f := rfl
@[simp] theorem State.raise_rng (s : State) (f : Fault) : (s.raise f).rng = s.rng := rfl
@[simp] theorem State.raise_phase (s : State) (f : Fault) : (s.raise f).phase = .between := rfl
@[simp] theorem State.raise_pending (s : State) (f : Fault) : (s.raise f).pending = s.pending := rfl
@[simp] theorem State.raise_reply (s : State) (f : Fault) : (s.raise f).reply = some (.failed f) := rfl

/-! ### `s.draw.2` -/

@[simp] theorem State.draw_v (s : State) : (s.draw.2).v = s.v := rfl
@[simp] theorem State.draw_i (s : State) : (s.draw.2).i = s.i := rfl
@[simp] theorem State.draw_pc (s : State) : (s.draw.2).pc = s.pc := rfl
@[simp] theorem State.draw_sp (s : State) : (s.draw.2).sp = s.sp := rfl
@[simp] theorem State.draw_stack (s : State) : (s.draw.2).stack = s.stack := rfl
@[simp] theorem State.draw_dt (s : State) : (s.draw.2).dt = s.dt := rfl
@[simp] theorem State.draw_st (s : State) : (s.draw.2).st = s.st := rfl
@[simp] theorem State.draw_key (s : State) : (s.draw.2).key = s.key := rfl
@[simp] theorem State.draw_disp (s : State) : (s.draw.2).disp = s.disp := rfl
@[simp] theorem State.draw_mem (s : State) : (s.draw.2).mem = s.mem := rfl
@[simp] theorem State.draw_sndGate (s : State) : (s.draw.2).sndGate = s.sndGate := rfl
@[simp] theorem State.draw_fault (s : State) : (s.draw.2).fault = s.fault := rfl
@[simp] theorem State.draw_rng (s : State) : (s.draw.2).rng = s.rng + 1 := rfl
@[simp] theorem State.draw_phase (s : State) : (s.draw.2).phase = s.phase := rfl
@[simp] theorem State.draw_pending (s : State) : (s.draw.2).pending = s.pending := rfl
@[simp] theorem State.draw_reply (s : State) : (s.draw.2).reply = s.reply := rfl

/-! ### `s.beginFrame keys` -/

@[simp] theorem State.beginFrame_v (s : State) (keys : Vector Bool 16) : (s.beginFrame keys).v = s.v := rfl
@[simp] theorem State.beginFrame_i (s : State) (keys : Vector Bool 16) : (s.beginFrame keys).i = s.i := rfl
@[simp] theorem State.beginFrame_pc (s : State) (keys : Vector Bool 16) : (s.beginFrame keys).pc = s.pc := rfl
@[simp] theorem State.beginFrame_sp (s : State) (keys : Vector Bool 16) : (s.beginFrame keys).sp = s.sp := rfl
@[simp] theorem State.beginFrame_stack (s : State) (keys : Vector Bool 16) : (s.beginFrame keys).stack = s.stack := rfl
@[simp] theorem State.beginFrame_dt (s : State) (keys : Vector Bool 16) : (s.beginFrame keys).dt = s.dt := rfl
@[simp] theorem State.beginFrame_st (s : State) (keys : Vector Bool 16) : (s.beginFrame keys).st = s.st := rfl
@[simp] theorem State.beginFrame_key (s : State) (keys : Vector Bool 16) : (s.beginFrame keys).key = keys := rfl
@[simp] theorem State.beginFrame_disp (s : State) (keys : Vector Bool 16) : (s.beginFrame keys).disp = s.disp := rfl
@[simp] theorem State.beginFrame_mem (s : State) (keys : Vector Bool 16) : (s.beginFrame keys).mem = s.mem := rfl
@[simp] theorem State.beginFrame_sndGate (s : State) (keys : Vector Bool 16) : (s.beginFrame keys).sndGate = decide (s.st ≠ 0) := rfl
@[simp] theorem State.beginFrame_fault (s : State) (keys : Vector Bool 16) : (s.beginFrame keys).fault = s.fault := rfl
@[simp] theorem State.beginFrame_rng (s : State) (keys : Vector Bool 16) : (s.beginFrame keys).rng = s.rng := rfl
@[simp] theorem State.beginFrame_phase (s : State) (keys : Vector Bool 16) : (s.beginFrame keys).phase = .cycles Config.cyclesPerFrame := rfl
@[simp] theorem State.beginFrame_pending (s : State) (keys : Vector Bool 16) : (s.beginFrame keys).pending = s.pending := rfl
@[simp] theorem State.beginFrame_reply (s : State) (keys : Vector Bool 16) : (s.beginFrame keys).reply = none := rfl

/-! ### `s.endFrame` -/

@[simp] theorem State.endFrame_v (s : State) : (s.endFrame).v = s.v := rfl
@[simp] theorem State.endFrame_i (s : State) : (s.endFrame).i = s.i := rfl
@[simp] theorem State.endFrame_pc (s : State) : (s.endFrame).pc = s.pc := rfl
@[simp] theorem State.endFrame_sp (s : State) : (s.endFrame).sp = s.sp := rfl
@[simp] theorem State.endFrame_stack (s : State) : (s.endFrame).stack = s.stack := rfl
@[simp] theorem State.endFrame_dt (s : State) : (s.endFrame).dt = decay s.dt := rfl
@[simp] theorem State.endFrame_st (s : State) : (s.endFrame).st = decay s.st := rfl
@[simp] theorem State.endFrame_key (s : State) : (s.endFrame).key = s.key := rfl
@[simp] theorem State.endFrame_disp (s : State) : (s.endFrame).disp = s.disp := rfl
@[simp] theorem State.endFrame_mem (s : State) : (s.endFrame).mem = s.mem := rfl
@[simp] theorem State.endFrame_sndGate (s : State) : (s.endFrame).sndGate = s.sndGate := rfl
@[simp] theorem State.endFrame_fault (s : State) : (s.endFrame).fault = s.fault := rfl
@[simp] theorem State.endFrame_rng (s : State) : (s.endFrame).rng = s.rng := rfl
@[simp] theorem State.endFrame_phase (s : State) : (s.endFrame).phase = .between := rfl
@[simp] theorem State.endFrame_pending (s : State) : (s.endFrame).pending = s.pending := rfl

/-! ### The register file -/

/-- A register reads back what was written to it. -/
@[simp] theorem State.reg_setReg_self (s : State) (x : Reg) (b : Byte) : (s.setReg x b).reg x = b := by
  simp only [State.reg, State.setReg, Vector.get_eq_getElem, Vector.getElem_set_self]

/-- A register write leaves every other register. -/
theorem State.reg_setReg_ne (s : State) {x j : Reg} (b : Byte) (h : j ≠ x) : (s.setReg x b).reg j = s.reg j := by
  have h' : x.val ≠ j.val := fun e => h (Fin.ext e.symm)
  simp only [State.reg, State.setReg, Vector.get_eq_getElem]
  exact Vector.getElem_set_ne _ _ h'

/-- Reading any register after a write. -/
theorem State.reg_setReg (s : State) (x j : Reg) (b : Byte) :
    (s.setReg x b).reg j = if j = x then b else s.reg j := by
  split
  · next h => subst h; exact State.reg_setReg_self s j b
  · next h => exact State.reg_setReg_ne s b h

@[simp] theorem State.setI_reg (s : State) (w : Word) (j : Reg) : (s.setI w).reg j = s.reg j := rfl
@[simp] theorem State.setPc_reg (s : State) (w : Word) (j : Reg) : (s.setPc w).reg j = s.reg j := rfl
@[simp] theorem State.setStack_reg (s : State) (sp : Fin 17) (e : Vector Word 16) (j : Reg) : (s.setStack sp e).reg j = s.reg j := rfl
@[simp] theorem State.setDt_reg (s : State) (b : Byte) (j : Reg) : (s.setDt b).reg j = s.reg j := rfl
@[simp] theorem State.setSt_reg (s : State) (b : Byte) (j : Reg) : (s.setSt b).reg j = s.reg j := rfl
@[simp] theorem State.setDisp_reg (s : State) (d : Vector RowBits 32) (j : Reg) : (s.setDisp d).reg j = s.reg j := rfl
@[simp] theorem State.storeBytes_reg (s : State) (a : Nat) (bs : List Byte) (j : Reg) : (s.storeBytes a bs).reg j = s.reg j := rfl
@[simp] theorem State.setPhase_reg (s : State) (p : Phase) (j : Reg) : (s.setPhase p).reg j = s.reg j := rfl
@[simp] theorem State.setPending_reg (s : State) (ops : List HostOp) (j : Reg) : (s.setPending ops).reg j = s.reg j := rfl
@[simp] theorem State.setReply_reg (s : State) (r : Option Reply) (j : Reg) : (s.setReply r).reg j = s.reg j := rfl
@[simp] theorem State.raise_reg (s : State) (f : Fault) (j : Reg) : (s.raise f).reg j = s.reg j := rfl
@[simp] theorem State.draw_reg (s : State) (j : Reg) : (s.draw.2).reg j = s.reg j := rfl
@[simp] theorem State.beginFrame_reg (s : State) (keys : Vector Bool 16) (j : Reg) : (s.beginFrame keys).reg j = s.reg j := rfl
@[simp] theorem State.endFrame_reg (s : State) (j : Reg) : (s.endFrame).reg j = s.reg j := rfl

@[simp] theorem State.setRegs_reg (s : State) (w : Vector Byte 16) (j : Reg) : (s.setRegs w).reg j = w.get j := rfl

/-! ### Bytes of memory -/

@[simp] theorem State.setReg_byteAt (s : State) (x : Reg) (b : Byte) (a : Nat) : (s.setReg x b).byteAt a = s.byteAt a := rfl
@[simp] theorem State.setRegs_byteAt (s : State) (w : Vector Byte 16) (a : Nat) : (s.setRegs w).byteAt a = s.byteAt a := rfl
@[simp] theorem State.setI_byteAt (s : State) (w : Word) (a : Nat) : (s.setI w).byteAt a = s.byteAt a := rfl
@[simp] theorem State.setPc_byteAt (s : State) (w : Word) (a : Nat) : (s.setPc w).byteAt a = s.byteAt a := rfl
@[simp] theorem State.setStack_byteAt (s : State) (sp : Fin 17) (e : Vector Word 16) (a : Nat) : (s.setStack sp e).byteAt a = s.byteAt a := rfl
@[simp] theorem State.setDt_byteAt (s : State) (b : Byte) (a : Nat) : (s.setDt b).byteAt a = s.byteAt a := rfl
@[simp] theorem State.setSt_byteAt (s : State) (b : Byte) (a : Nat) : (s.setSt b).byteAt a = s.byteAt a := rfl
@[simp] theorem State.setDisp_byteAt (s : State) (d : Vector RowBits 32) (a : Nat) : (s.setDisp d).byteAt a = s.byteAt a := rfl
@[simp] theorem State.setPhase_byteAt (s : State) (p : Phase) (a : Nat) : (s.setPhase p).byteAt a = s.byteAt a := rfl
@[simp] theorem State.setPending_byteAt (s : State) (ops : List HostOp) (a : Nat) : (s.setPending ops).byteAt a = s.byteAt a := rfl
@[simp] theorem State.setReply_byteAt (s : State) (r : Option Reply) (a : Nat) : (s.setReply r).byteAt a = s.byteAt a := rfl
@[simp] theorem State.raise_byteAt (s : State) (f : Fault) (a : Nat) : (s.raise f).byteAt a = s.byteAt a := rfl
@[simp] theorem State.draw_byteAt (s : State) (a : Nat) : (s.draw.2).byteAt a = s.byteAt a := rfl
@[simp] theorem State.beginFrame_byteAt (s : State) (keys : Vector Bool 16) (a : Nat) : (s.beginFrame keys).byteAt a = s.byteAt a := rfl
@[simp] theorem State.endFrame_byteAt (s : State) (a : Nat) : (s.endFrame).byteAt a = s.byteAt a := rfl

end Sys2Proof.Machine
end

