-- ==== Sys2Proof/Laws/Ops.lean ====
section
/-! SUPPORT. One lemma for each shared operation of Machine/Ops.lean, Operands.lean, Flags.lean and Display.lean that
says everything it can do. -/

namespace Sys2Proof.Machine

/-! ### Skips -/

/-- A skip is taken or the state stays. -/
theorem State.skipIf_eq (s : State) (c : Bool) : s.skipIf c = s.setPc (if c then s.pc + 2 else s.pc) := by
  cases c <;> rfl

/-! ### The flag forms (R24) -/

/-- The flag lands last: it is what `VF` holds, also where `VF` is the destination. -/
theorem State.reg_setRegFlag (s : State) (x : Reg) (r : Byte) (c : Bool) (j : Reg) :
    (s.setRegFlag x r c).reg j = if j = VF then flagByte c else if j = x then r else s.reg j := by
  simp only [State.setRegFlag, State.reg_setReg]

/-- A flag form writes registers only. -/
theorem State.setRegFlag_rest (s : State) (x : Reg) (r : Byte) (c : Bool) :
    s.setRegFlag x r c = { s with v := (s.setRegFlag x r c).v } := rfl

/-- A flag byte is 1 or 0. -/
theorem flagByte_cases (c : Bool) : (c = true ∧ flagByte c = 1) ∨ (c = false ∧ flagByte c = 0) := by
  cases c
  · exact .inr ⟨rfl, rfl⟩
  · exact .inl ⟨rfl, rfl⟩

/-! ### The stack -/

/-- What a push does: an entry and the count, or nothing when the stack is full. -/
theorem State.push_cases (s : State) (w : Word) :
    (∃ h : s.sp.val < 16, s.push w = some (s.setStack ⟨s.sp.val + 1, by omega⟩ (s.stack.set s.sp.val w h)))
    ∨ (s.sp = 16 ∧ s.push w = none) := by
  by_cases h : s.sp.val < 16
  · exact .inl ⟨h, by simp only [State.push, dif_pos h]⟩
  · exact .inr ⟨Fin.ext (by have := s.sp.isLt; show s.sp.val = 16; omega), by simp only [State.push, dif_neg h]⟩

/-- What a pop does: the entry under the count, or nothing when the stack is empty. -/
theorem State.pop_cases (s : State) :
    (∃ _h : s.sp.val ≠ 0, s.pop = some (s.stack[s.sp.val - 1]'(by omega), s.setStack ⟨s.sp.val - 1, by omega⟩ s.stack))
    ∨ (s.sp = 0 ∧ s.pop = none) := by
  by_cases h : s.sp.val = 0
  · exact .inr ⟨Fin.ext h, by simp only [State.pop, dif_pos h]⟩
  · exact .inl ⟨h, by simp only [State.pop, dif_neg h]⟩

/-! ### Data ranges (R56) -/

/-- What a guarded access does: its effect, or only the fault. -/
theorem State.inRange_cases (s : State) (n : Nat) (k : State) :
    ((n = 0 ∨ s.i.toNat + n ≤ 4096) ∧ s.inRange n k = .next k)
    ∨ (n ≠ 0 ∧ 4096 < s.i.toNat + n ∧ s.inRange n k = .next (s.raise (.memRangeFault (max s.i.toNat 4096)))) := by
  by_cases h : n = 0 ∨ s.i.toNat + n ≤ 4096
  · have h' : n = 0 ∨ s.dataBase + n ≤ Config.memSize := h
    exact .inl ⟨h, by simp only [State.inRange, State.rangeFault, if_pos h']⟩
  · have h' : ¬ (n = 0 ∨ s.dataBase + n ≤ Config.memSize) := h
    exact .inr ⟨fun e => h (.inl e), by omega, by simp only [State.inRange, State.rangeFault, if_neg h']; rfl⟩

/-! ### Fetch (R52, R53) -/

/-- What a fetch does. -/
theorem State.fetch_cases (s : State) :
    (s.pc.toNat ≤ 4094 ∧
      s.fetch = .ok (wordOfBytes (s.byteAt s.pc.toNat) (s.byteAt (s.pc.toNat + 1)), s.setPc (s.pc + 2)))
    ∨ (s.pc.toNat = 4096 ∧ s.fetch = .error (.fetchFault s.pc))
    ∨ (4094 < s.pc.toNat ∧ s.pc.toNat ≠ 4096 ∧ s.fetch = .error (.memRangeFault (max s.pc.toNat 4096))) := by
  by_cases h : s.pc.toNat + 2 ≤ Config.memSize
  · exact .inl ⟨by simp only [Config.memSize] at h; omega, by simp only [State.fetch, if_pos h]⟩
  · have h' : 4094 < s.pc.toNat := by simp only [Config.memSize] at h; omega
    by_cases e : s.pc.toNat = Config.memSize
    · exact .inr (.inl ⟨e, by simp only [State.fetch, if_neg h, if_pos e]⟩)
    · exact .inr (.inr ⟨h', e, by simp only [State.fetch, if_neg h, if_neg e]; rfl⟩)

/-! ### Keys (R160, R163) -/

/-- A key number has a key exactly when it is at most 15. -/
theorem State.keyHeld_cases (s : State) (k : Byte) :
    (∃ h : k.toNat < 16, s.keyHeld k = some (s.key.get ⟨k.toNat, h⟩)) ∨ (15 < k.toNat ∧ s.keyHeld k = none) := by
  by_cases h : k.toNat < 16
  · exact .inl ⟨h, by simp [State.keyHeld, h, Vector.get_eq_getElem]⟩
  · exact .inr ⟨by omega, by simp [State.keyHeld, h]⟩

/-- No key is held. -/
theorem State.lowestKey_none (s : State) : s.lowestKey = none ↔ ∀ j : Fin 16, s.key.get j = false := by
  simp [State.lowestKey]

/-- A lowest key is held, and no lower one is. -/
theorem State.lowestKey_some (s : State) {j : Fin 16} (h : s.lowestKey = some j) :
    s.key.get j = true ∧ ∀ k : Fin 16, k < j → s.key.get k = false := by
  rw [State.lowestKey, List.find?_eq_some_iff_getElem] at h
  obtain ⟨hj, n, hn, hnj, hlt⟩ := h
  refine ⟨hj, fun k hk => ?_⟩
  have hjn : j.val = n := by rw [← hnj]; simp
  have := hlt k.val (by have : k.val < j.val := hk; omega)
  simpa using this

/-! ### Block moves (R144, R145) -/

/-- The bytes of `V[0]` to `V[x]` are `x + 1` bytes. -/
@[simp] theorem State.regsUpTo_length (s : State) (x : Reg) : (s.regsUpTo x).length = x.val + 1 := by
  have := x.isLt
  simp [State.regsUpTo, rangeLength]

/-- Byte `j` of the block is `V[j]`. -/
theorem State.regsUpTo_getD (s : State) (x j : Reg) (h : j ≤ x) : (s.regsUpTo x).getD j.val 0 = s.reg j := by
  have hj : j.val < x.val + 1 := Nat.lt_succ_of_le h
  simp [State.regsUpTo, rangeLength, State.reg, Vector.get_eq_getElem, List.getD, hj]

/-- A loaded register file, register by register. -/
theorem State.loadedRegs_get (s : State) (x j : Reg) :
    (s.loadedRegs x).get j = if j ≤ x then s.byteAt (s.i.toNat + j.val) else s.reg j := by
  simp only [State.loadedRegs, Vector.get_eq_getElem, Vector.getElem_ofFn, State.dataBase]

/-! ### The compositor (R152 to R154) -/

/-- One composed row: exclusive or there, every other row as before. -/
theorem composeRow_get (row : Fin 32) (m : RowBits) (acc : Vector RowBits 32 × Bool) (r : Fin 32) :
    (composeRow row m acc).1.get r = if r = row then acc.1.get r ^^^ m else acc.1.get r := by
  simp only [composeRow, Vector.get_eq_getElem]
  by_cases h : r = row
  · subst h; rw [if_pos rfl, Vector.getElem_set_self]
  · rw [if_neg h, Vector.getElem_set_ne _ _ (fun e => h (Fin.ext e.symm))]

/-- The collision of one composed row is added to what there was. -/
theorem composeRow_hit (row : Fin 32) (m : RowBits) (acc : Vector RowBits 32 × Bool) :
    (composeRow row m acc).2 = (acc.2 || collides (acc.1.get row) m) := rfl

/-- A rotation by less than 64, bit by bit: bit `i` of the placed row is bit `(i + cx) mod 64` of the byte at the top
of the row (R8, R152). -/
theorem placedRow_bit (b : Byte) (cx i : Nat) (h : i < 64) :
    (placedRow b cx).getLsbD i = ((b.setWidth 64 : RowBits) <<< 56).getLsbD ((i + cx) % 64) := by
  have hc : cx % 64 < 64 := Nat.mod_lt _ (by omega)
  rw [placedRow, BitVec.getLsbD_rotateRight]
  have e : cx % 64 % 64 = cx % 64 := Nat.mod_eq_of_lt hc
  rw [e]
  by_cases hi : i < 64 - cx % 64
  · simp only [hi, decide_true, cond_true]
    congr 1
    omega
  · simp only [hi, decide_false, cond_false, h, decide_true, Bool.true_and]
    congr 1
    omega

/-- The sprite rows of a draw land on different display rows, as long as there are at most 32. -/
theorem targetRow_inj {cy r k : Nat} (h0 : 0 < k) (h : k < 32) : targetRow cy r ≠ targetRow cy (r + k) := by
  intro e
  have := congrArg Fin.val e
  simp only [targetRow] at this
  omega

/-- What drawing sprite rows does (R153, R154): byte `k` is exclusive-ored into its own display row, a row no byte
lands on stays, and the draw collides when some byte's row does. -/
theorem composeRows_spec (cx cy : Nat) (bs : List Byte) : ∀ (r : Nat) (acc : Vector RowBits 32 × Bool), bs.length ≤ 32 →
    (∀ k (h : k < bs.length), (composeRows cx cy r bs acc).1.get (targetRow cy (r + k))
      = acc.1.get (targetRow cy (r + k)) ^^^ placedRow bs[k] cx)
    ∧ (∀ q : Fin 32, (∀ k, k < bs.length → q ≠ targetRow cy (r + k)) →
      (composeRows cx cy r bs acc).1.get q = acc.1.get q)
    ∧ ((composeRows cx cy r bs acc).2 = true ↔ acc.2 = true ∨
      ∃ k, ∃ h : k < bs.length, collides (acc.1.get (targetRow cy (r + k))) (placedRow bs[k] cx) = true) := by
  induction bs with
  | nil =>
    intro r acc _
    exact ⟨fun k h => absurd h (Nat.not_lt_zero k), fun q _ => rfl, ⟨.inl, fun h => by
      rcases h with h | ⟨k, h, _⟩
      · exact h
      · exact absurd h (Nat.not_lt_zero k)⟩⟩
  | cons b bs ih =>
    intro r acc hlen
    have hlen' : bs.length + 1 ≤ 32 := hlen
    obtain ⟨i1, i2, i3⟩ := ih (r + 1) (composeRow (targetRow cy r) (placedRow b cx) acc) (by omega)
    have shift : ∀ k, targetRow cy (r + 1 + k) = targetRow cy (r + (k + 1)) := fun k => by congr 1; omega
    have off : ∀ k, k < bs.length → targetRow cy (r + (k + 1)) ≠ targetRow cy r := fun k hk e =>
      targetRow_inj (Nat.succ_pos k) (by omega) e.symm
    refine ⟨fun k h => ?_, fun q hq => ?_, ?_⟩
    · cases k with
      | zero =>
        have := i2 (targetRow cy r) (fun k hk => by rw [shift]; exact (off k hk).symm)
        rw [composeRow_get, if_pos rfl] at this
        exact this
      | succ k =>
        have hk : k < bs.length := by simpa using h
        have := i1 k hk
        rw [shift, composeRow_get, if_neg (off k hk)] at this
        exact this
    · have h0 : q ≠ targetRow cy r := hq 0 (by simp)
      rw [composeRows, i2 q (fun k hk => by rw [shift]; exact hq (k + 1) (by simpa using hk)), composeRow_get,
        if_neg h0]
    · rw [composeRows, i3, composeRow_hit, Bool.or_eq_true, or_assoc]
      refine or_congr_right ⟨fun h => ?_, fun h => ?_⟩
      · rcases h with h | ⟨k, hk, h⟩
        · exact ⟨0, by simp, h⟩
        · rw [shift, composeRow_get, if_neg (off k hk)] at h
          exact ⟨k + 1, by simpa using hk, h⟩
      · obtain ⟨k, hk, h⟩ := h
        cases k with
        | zero => exact .inl h
        | succ k =>
          have hk' : k < bs.length := by simpa using hk
          refine .inr ⟨k, hk', ?_⟩
          rw [shift, composeRow_get, if_neg (off k hk')]
          exact h

/-- A placed row, pixel by pixel (R152): column `c` is lit when bit `7 - j` of the byte is 1 for the `j` with
`(cx + j) mod 64 = c`. -/
theorem placedRow_pixel (b : Byte) (cx : Nat) (c : Fin 64) :
    (placedRow b cx).getLsbD (63 - c.val) = true ↔ ∃ j, j < 8 ∧ (cx + j) % 64 = c.val ∧ b.getLsbD (7 - j) = true := by
  have hc := c.isLt
  rw [placedRow_bit b cx _ (by omega), BitVec.getLsbD_shiftLeft, BitVec.getLsbD_setWidth]
  generalize hm : (63 - c.val + cx) % 64 = m
  have hm64 : m < 64 := by omega
  simp only [hm64, decide_true, Bool.true_and]
  constructor
  · intro h
    simp only [Bool.and_eq_true, Bool.not_eq_true', decide_eq_false_iff_not] at h
    exact ⟨63 - m, by omega, by omega, by rw [show 7 - (63 - m) = m - 56 by omega]; exact h.2.2⟩
  · rintro ⟨j, hj, hjc, hb⟩
    have : m = 63 - j := by omega
    simp only [Bool.and_eq_true, Bool.not_eq_true', decide_eq_false_iff_not]
    exact ⟨by omega, by simp; omega, by rw [show m - 56 = 7 - j by omega]; exact hb⟩

end Sys2Proof.Machine
end

