-- ==== Sys2Proof/Laws/PerInstr.lean ====
section
/-! SUPPORT. The per-instruction family `FixedBits`: the word of an instruction carries every fixed bit of its row of
spec/30_encoding.md R75 (mask and match), so that the row selects it (R74). -/

namespace Sys2Proof.Laws.FixedBits

/-- The mask and the match of each form, from R75. -/
def row : Instr → Word × Word
  | .cls => (0xFFFF, 0x00E0)
  | .ret => (0xFFFF, 0x00EE)
  | .jp _ => (0xF000, 0x1000)
  | .call _ => (0xF000, 0x2000)
  | .seImm _ _ => (0xF000, 0x3000)
  | .sneImm _ _ => (0xF000, 0x4000)
  | .seReg _ _ => (0xF00F, 0x5000)
  | .sneReg _ _ => (0xF00F, 0x9000)
  | .ldImm _ _ => (0xF000, 0x6000)
  | .ldReg _ _ => (0xF00F, 0x8000)
  | .addImm _ _ => (0xF000, 0x7000)
  | .orReg _ _ => (0xF00F, 0x8001)
  | .andReg _ _ => (0xF00F, 0x8002)
  | .xorReg _ _ => (0xF00F, 0x8003)
  | .addReg _ _ => (0xF00F, 0x8004)
  | .subReg _ _ => (0xF00F, 0x8005)
  | .shr _ _ => (0xF00F, 0x8006)
  | .subn _ _ => (0xF00F, 0x8007)
  | .shl _ _ => (0xF00F, 0x800E)
  | .ldI _ => (0xF000, 0xA000)
  | .jpV0 _ => (0xF000, 0xB000)
  | .rnd _ _ => (0xF000, 0xC000)
  | .drw _ _ _ => (0xF000, 0xD000)
  | .skp _ => (0xF0FF, 0xE09E)
  | .sknp _ => (0xF0FF, 0xE0A1)
  | .ldVxDt _ => (0xF0FF, 0xF007)
  | .ldDtVx _ => (0xF0FF, 0xF015)
  | .ldStVx _ => (0xF0FF, 0xF018)
  | .ldVxK _ => (0xF0FF, 0xF00A)
  | .addI _ => (0xF0FF, 0xF01E)
  | .ldF _ => (0xF0FF, 0xF029)
  | .ldB _ => (0xF0FF, 0xF033)
  | .storeRegs _ => (0xF0FF, 0xF055)
  | .loadRegs _ => (0xF0FF, 0xF065)

/-- The encoded word, under the row's mask, is the row's match. -/
def Statement (i : Instr) : Prop := encode i &&& (row i).1 = (row i).2

theorem cls : Statement .cls := by unfold Statement; decide
theorem ret : Statement .ret := by unfold Statement; decide
theorem jp (nnn : BitVec 12) : Statement (.jp nnn) := (packA_family _ _).trans rfl
theorem call (nnn : BitVec 12) : Statement (.call nnn) := (packA_family _ _).trans rfl
theorem seImm (x : Reg) (kk : Byte) : Statement (.seImm x kk) := (packA_family _ _).trans rfl
theorem sneImm (x : Reg) (kk : Byte) : Statement (.sneImm x kk) := (packA_family _ _).trans rfl
theorem seReg (x y : Reg) : Statement (.seReg x y) := (packXY_fixed _ _ _ _).trans rfl
theorem sneReg (x y : Reg) : Statement (.sneReg x y) := (packXY_fixed _ _ _ _).trans rfl
theorem ldImm (x : Reg) (kk : Byte) : Statement (.ldImm x kk) := (packA_family _ _).trans rfl
theorem ldReg (x y : Reg) : Statement (.ldReg x y) := (packXY_fixed _ _ _ _).trans rfl
theorem addImm (x : Reg) (kk : Byte) : Statement (.addImm x kk) := (packA_family _ _).trans rfl
theorem orReg (x y : Reg) : Statement (.orReg x y) := (packXY_fixed _ _ _ _).trans rfl
theorem andReg (x y : Reg) : Statement (.andReg x y) := (packXY_fixed _ _ _ _).trans rfl
theorem xorReg (x y : Reg) : Statement (.xorReg x y) := (packXY_fixed _ _ _ _).trans rfl
theorem addReg (x y : Reg) : Statement (.addReg x y) := (packXY_fixed _ _ _ _).trans rfl
theorem subReg (x y : Reg) : Statement (.subReg x y) := (packXY_fixed _ _ _ _).trans rfl
theorem shr (x y : Reg) : Statement (.shr x y) := (packXY_fixed _ _ _ _).trans rfl
theorem subn (x y : Reg) : Statement (.subn x y) := (packXY_fixed _ _ _ _).trans rfl
theorem shl (x y : Reg) : Statement (.shl x y) := (packXY_fixed _ _ _ _).trans rfl
theorem ldI (nnn : BitVec 12) : Statement (.ldI nnn) := (packA_family _ _).trans rfl
theorem jpV0 (nnn : BitVec 12) : Statement (.jpV0 nnn) := (packA_family _ _).trans rfl
theorem rnd (x : Reg) (kk : Byte) : Statement (.rnd x kk) := (packA_family _ _).trans rfl
theorem drw (x y : Reg) (n : Nat) : Statement (.drw x y n) := (packA_family _ _).trans rfl
theorem skp (x : Reg) : Statement (.skp x) := (packXK_fixed _ _ _).trans rfl
theorem sknp (x : Reg) : Statement (.sknp x) := (packXK_fixed _ _ _).trans rfl
theorem ldVxDt (x : Reg) : Statement (.ldVxDt x) := (packXK_fixed _ _ _).trans rfl
theorem ldDtVx (x : Reg) : Statement (.ldDtVx x) := (packXK_fixed _ _ _).trans rfl
theorem ldStVx (x : Reg) : Statement (.ldStVx x) := (packXK_fixed _ _ _).trans rfl
theorem ldVxK (x : Reg) : Statement (.ldVxK x) := (packXK_fixed _ _ _).trans rfl
theorem addI (x : Reg) : Statement (.addI x) := (packXK_fixed _ _ _).trans rfl
theorem ldF (x : Reg) : Statement (.ldF x) := (packXK_fixed _ _ _).trans rfl
theorem ldB (x : Reg) : Statement (.ldB x) := (packXK_fixed _ _ _).trans rfl
theorem storeRegs (x : Reg) : Statement (.storeRegs x) := (packXK_fixed _ _ _).trans rfl
theorem loadRegs (x : Reg) : Statement (.loadRegs x) := (packXK_fixed _ _ _).trans rfl

end Sys2Proof.Laws.FixedBits
end

