-- ==== Sys2Proof/Laws/Step.lean ====
section
/-! SUPPORT. What a cycle, a step and a run can do, said once; and the comparison of states part by part. -/

namespace Sys2Proof.Machine

/-- What a cycle can do (R170): a fetch fault, an illegal word, or the instruction at `PC`. -/
theorem cycle_cases (s : State) :
    (∃ f, s.fetch = .error f ∧ cycle s = .next (s.raise f))
    ∨ (∃ op t, s.fetch = .ok (op, t) ∧ decodeWord op = none ∧ cycle s = .next (t.raise (.unsupportedOpcode op)))
    ∨ (∃ op t i, s.fetch = .ok (op, t) ∧ decodeWord op = some i ∧ cycle s = exec i t) := by
  cases hf : s.fetch with
  | error f => exact .inl ⟨f, rfl, by simp only [cycle, hf]⟩
  | ok r =>
    obtain ⟨op, t⟩ := r
    cases hd : decodeWord op with
    | none => exact .inr (.inl ⟨op, t, rfl, hd, by simp only [cycle, hf, hd]⟩)
    | some i => exact .inr (.inr ⟨op, t, i, rfl, hd, by simp only [cycle, hf, hd]⟩)

/-- What the host's turn can do. -/
theorem hostTurn_cases (s : State) :
    (∃ op rest, s.pending = op :: rest ∧ hostTurn s = .next ((s.setPending rest).perform op))
    ∨ (∃ f, s.pending = [] ∧ s.fault = some f ∧ hostTurn s = .fault f)
    ∨ (s.pending = [] ∧ s.fault = none ∧ hostTurn s = .next s) := by
  cases hp : s.pending with
  | cons op rest => exact .inl ⟨op, rest, rfl, by simp only [hostTurn, hp]⟩
  | nil =>
    cases hf : s.fault with
    | some f => exact .inr (.inl ⟨f, rfl, rfl, by simp only [hostTurn, hp, hf]⟩)
    | none => exact .inr (.inr ⟨rfl, rfl, by simp only [hostTurn, hp, hf]⟩)

/-- What a step can do: a cycle of a frame, the end of a frame, or the host's turn. -/
theorem step_cases (s : State) :
    (∃ left, s.fault = none ∧ s.phase = .cycles (left + 1) ∧ step s = cycle (s.setPhase (.cycles left)))
    ∨ (s.fault = none ∧ s.phase = .cycles 0 ∧ step s = .next s.endFrame)
    ∨ ((s.fault ≠ none ∨ s.phase = .between) ∧ step s = hostTurn s) := by
  cases hf : s.fault with
  | some f => exact .inr (.inr ⟨.inl (by simp), by simp only [step, advance, hf]⟩)
  | none =>
    cases hp : s.phase with
    | between => exact .inr (.inr ⟨.inr rfl, by simp only [step, advance, hf, hp]⟩)
    | cycles n =>
      cases n with
      | zero => exact .inr (.inl ⟨rfl, rfl, by simp only [step, advance, hf, hp]⟩)
      | succ left => exact .inl ⟨left, rfl, rfl, by simp only [step, advance, hf, hp]⟩

/-- What performing a host operation can do (R173 to R176, R212). -/
theorem State.perform_cases (s : State) (op : HostOp) :
    (∃ seed, op = .reset seed ∧ s.perform op = s.performReset seed)
    ∨ (∃ f, s.fault = some f ∧ s.perform op = s.setReply (some (.failed f)))
    ∨ (∃ rom, op = .load rom ∧ s.fault = none ∧ s.perform op = s.performLoad rom)
    ∨ (∃ keys, op = .stepFrame keys ∧ s.fault = none ∧ s.perform op = s.beginFrame keys) := by
  cases op with
  | reset seed => exact .inl ⟨seed, rfl, rfl⟩
  | load rom =>
    cases hf : s.fault with
    | some f => exact .inr (.inl ⟨f, rfl, by simp only [State.perform, hf]⟩)
    | none => exact .inr (.inr (.inl ⟨rom, rfl, rfl, by simp only [State.perform, hf]⟩))
  | stepFrame keys =>
    cases hf : s.fault with
    | some f => exact .inr (.inl ⟨f, rfl, by simp only [State.perform, hf]⟩)
    | none => exact .inr (.inr (.inr ⟨keys, rfl, rfl, by simp only [State.perform, hf]⟩))

/-- A run whose first step goes on is the rest of the run from there. -/
theorem run_of_step (n : Nat) {s u : State} (h : step s = .next u) :
    Host.Core.run Sys2Proof.core (n + 1) s = Host.Core.run Sys2Proof.core n u := by
  have h' : Sys2Proof.core.step s = .next u := h
  simp only [Host.Core.run, h']

/-- A run that goes on went on in its first step. -/
theorem run_first_step {n : Nat} {s t : State} (h : Host.Core.run Sys2Proof.core (n + 1) s = .next t) :
    ∃ u : State, step s = .next u ∧ Host.Core.run Sys2Proof.core n u = .next t := by
  cases e : step s with
  | next u => exact ⟨u, rfl, by rw [← run_of_step n e]; exact h⟩
  | fault r =>
    have e' : Sys2Proof.core.step s = .fault r := e
    simp only [Host.Core.run, e'] at h
    cases h
  | refused r =>
    have e' : Sys2Proof.core.step s = .refused r := e
    simp only [Host.Core.run, e'] at h
    cases h

/-- Every part is kept by a state that does not change. -/
theorem KeepsAllBut.refl (ps : List Part) (s : State) : KeepsAllBut ps s s := by
  intro p _
  cases p <;> simp [Part.kept]

end Sys2Proof.Machine
end

