-- ==== Sys2Proof/Machine/Font.lean ====
section
/-! DEFINITION. The default value of the parameter `FONT` (spec/20_memory.md R58): the conventional CHIP-8 hexadecimal
font, general knowledge of the spec's and not in its source (D9, G2). It is a premise only: `Config.font` is opaque, and
a claim about the shape of a glyph names `Config.FontIsDefault` among its hypotheses (log entry 7). -/

namespace Sys2Proof.Config

/-- The glyphs of the digits 0 to 7, five bytes each, lowest address first (R58). -/
def fontLow : List Byte :=
  [ 0xF0, 0x90, 0x90, 0x90, 0xF0,  0x20, 0x60, 0x20, 0x20, 0x70,
    0xF0, 0x10, 0xF0, 0x80, 0xF0,  0xF0, 0x10, 0xF0, 0x10, 0xF0,
    0x90, 0x90, 0xF0, 0x10, 0x10,  0xF0, 0x80, 0xF0, 0x10, 0xF0,
    0xF0, 0x80, 0xF0, 0x90, 0xF0,  0xF0, 0x10, 0x20, 0x40, 0x40 ]

/-- The glyphs of the digits 8 to F (R58). -/
def fontHigh : List Byte :=
  [ 0xF0, 0x90, 0xF0, 0x90, 0xF0,  0xF0, 0x90, 0xF0, 0x10, 0xF0,
    0xF0, 0x90, 0xF0, 0x90, 0x90,  0xE0, 0x90, 0xE0, 0x90, 0xE0,
    0xF0, 0x80, 0x80, 0x80, 0xF0,  0xE0, 0x90, 0x90, 0x90, 0xE0,
    0xF0, 0x80, 0xF0, 0x80, 0xF0,  0xF0, 0x80, 0xF0, 0x80, 0x80 ]

/-- The default table of R58: 80 bytes, the glyph of digit `d` at `5*d`. -/
def fontDefault : List Byte := fontLow ++ fontHigh

/-- The premise that this machine's `FONT` is the default table (R58). Nothing proves or refutes it. -/
def FontIsDefault : Prop := font.toList = fontDefault

end Sys2Proof.Config
end

