-- ==== Sys2Proof/Tests/Slice0.lean ====
section
/-! SUPPORT. Tests on fixed values, each expected result taken from spec/ (spec/95_test_vectors.md where a vector is
named, T-…), and one witness for every statement of Certificates/Slice0/Obligations.lean that has hypotheses: a
concrete state and operands that meet all of them, at the ends of their ranges. -/

namespace Sys2Proof.Tests

open Sys2Proof.Machine

/-! ### Helpers -/

/-- The state after the one step that runs the word `op` from `s`. -/
def runWord (op : Nat) (s : State) : Option State :=
  match step (s.withFetchWord 16 op) with
  | .next t => some t
  | .fault _ => none
  | .refused _ => none

/-- The state an outcome goes on to. -/
def nextOf (o : Host.Outcome State Fault Refusal) : Option State :=
  match o with
  | .next t => some t
  | .fault _ => none
  | .refused _ => none

/-- Registers 1 and 2 loaded. -/
def r12 (a b : Byte) : State := (State.reset.setReg 1 a).setReg 2 b

/-- One register loaded. -/
def r1 (x : Reg) (a : Byte) : State := State.reset.setReg x a

/-- Keys 3 and 9 held (T-KEY-1). -/
def keys39 : Vector Bool 16 := Vector.ofFn (fun j : Fin 16 => decide (j = 3 ∨ j = 9))

/-- Only one key held. -/
def oneKey (k : Fin 16) : Vector Bool 16 := Vector.ofFn (fun j : Fin 16 => decide (j = k))

/-- The state with these keys in the snapshot. -/
def State.withKeys (s : State) (ks : Vector Bool 16) : State := { s with key := ks }

/-- `SP` entries on the stack, entry `j` being `0x222 + j`. -/
def stacked (sp : Fin 17) : State :=
  State.reset.setStack sp (Vector.ofFn (fun j : Fin 16 => BitVec.ofNat 16 (0x222 + j.val)))

/-- Sprite bytes at 0x300, `I` there, and the coordinates in `V1` and `V2`. -/
def sprite (bs : List Byte) (cx cy : Byte) : State := ((r12 cx cy).setI 0x300).storeBytes 0x300 bs

/-- A row put on the display. -/
def withRow (s : State) (r : Fin 32) (d : RowBits) : State := s.setDisp (s.disp.set r.val d r.isLt)

/-- What a latched fault left behind: the fault and the program counter. -/
def faultAndPc (o : Option State) : Option (Option Fault × Word) := o.map (fun t => (t.fault, t.pc))

/-! ### Well-formedness -/

/-- A row count of 16 has no encoding (R73). -/
theorem test_wellFormed_refuses_row_count_16 : ¬ (Instr.drw 1 2 16).WellFormed := by decide

/-- A row count of 15 has one (R73). -/
theorem test_wellFormed_accepts_row_count_15 : (Instr.drw 1 2 15).WellFormed := by decide

/-! ### Decoding: a word of every form, written out from R75 (x = 1, y = 2 unless said) -/

theorem test_decode_cls : decodeWord 0x00E0 = some (.cls) := by decide
theorem test_decode_ret : decodeWord 0x00EE = some (.ret) := by decide
theorem test_decode_jp : decodeWord 0x1ABC = some (.jp 0xABC) := by decide
theorem test_decode_call : decodeWord 0x2ABC = some (.call 0xABC) := by decide
theorem test_decode_seImm : decodeWord 0x312A = some (.seImm 1 0x2A) := by decide
theorem test_decode_sneImm : decodeWord 0x412A = some (.sneImm 1 0x2A) := by decide
theorem test_decode_seReg : decodeWord 0x5120 = some (.seReg 1 2) := by decide
theorem test_decode_sneReg : decodeWord 0x9120 = some (.sneReg 1 2) := by decide
theorem test_decode_ldImm : decodeWord 0x6FAB = some (.ldImm 15 0xAB) := by decide
theorem test_decode_ldReg : decodeWord 0x8120 = some (.ldReg 1 2) := by decide
theorem test_decode_addImm : decodeWord 0x71FF = some (.addImm 1 0xFF) := by decide
theorem test_decode_orReg : decodeWord 0x8121 = some (.orReg 1 2) := by decide
theorem test_decode_andReg : decodeWord 0x8122 = some (.andReg 1 2) := by decide
theorem test_decode_xorReg : decodeWord 0x8123 = some (.xorReg 1 2) := by decide
theorem test_decode_addReg : decodeWord 0x8F14 = some (.addReg 15 1) := by decide
theorem test_decode_subReg : decodeWord 0x8125 = some (.subReg 1 2) := by decide
theorem test_decode_shr : decodeWord 0x8126 = some (.shr 1 2) := by decide
theorem test_decode_subn : decodeWord 0x8127 = some (.subn 1 2) := by decide
theorem test_decode_shl : decodeWord 0x812E = some (.shl 1 2) := by decide
theorem test_decode_ldI : decodeWord 0xA300 = some (.ldI 0x300) := by decide
theorem test_decode_jpV0 : decodeWord 0xBFFF = some (.jpV0 0xFFF) := by decide
theorem test_decode_rnd : decodeWord 0xC10F = some (.rnd 1 0x0F) := by decide
theorem test_decode_drw : decodeWord 0xD12F = some (.drw 1 2 15) := by decide
theorem test_decode_skp : decodeWord 0xE19E = some (.skp 1) := by decide
theorem test_decode_sknp : decodeWord 0xE1A1 = some (.sknp 1) := by decide
theorem test_decode_ldVxDt : decodeWord 0xF107 = some (.ldVxDt 1) := by decide
theorem test_decode_ldDtVx : decodeWord 0xF115 = some (.ldDtVx 1) := by decide
theorem test_decode_ldStVx : decodeWord 0xF118 = some (.ldStVx 1) := by decide
theorem test_decode_ldVxK : decodeWord 0xF50A = some (.ldVxK 5) := by decide
theorem test_decode_addI : decodeWord 0xF21E = some (.addI 2) := by decide
theorem test_decode_ldF : decodeWord 0xF229 = some (.ldF 2) := by decide
theorem test_decode_ldB : decodeWord 0xF033 = some (.ldB 0) := by decide
theorem test_decode_storeRegs : decodeWord 0xFF55 = some (.storeRegs 15) := by decide
theorem test_decode_loadRegs : decodeWord 0xF265 = some (.loadRegs 2) := by decide

/-- No word is selected by two rows: any two rows differ in a bit that both fix (R74). -/
theorem test_rows_are_disjoint :
    opcodeRows.Pairwise (fun a b => (a.pattern ^^^ b.pattern) &&& (a.mask &&& b.mask) ≠ 0) := by decide

/-- There are 34 rows (R75), and no row's match has a bit outside its mask. -/
theorem test_rows_are_34 : opcodeRows.length = 34 ∧ ∀ r ∈ opcodeRows, r.pattern &&& r.mask = r.pattern := by decide

/-- T-DEC-1 to T-DEC-8: illegal words. -/
theorem test_decode_refuses_illegal_words :
    ([0x0000, 0x0123, 0x00E1, 0x5121, 0x9121, 0x8128, 0x8129, 0x812A, 0x812D, 0x812F, 0xE100, 0xE19F, 0xF1FF, 0xF100,
      0xF175] : List Word).all (fun op => decodeWord op == none) = true := by decide

/-- The table's numbering is the word's (R70). -/
theorem test_decodeTableWord : decodeTableWord 16 0xD12F = some (.drw 1 2 15) ∧ decodeTableWord 16 0x0123 = none := by
  decide

/-- The high byte comes first (R50). -/
theorem test_encodeBytes : encodeBytes (.ldImm 0 0x2A) = [0x60, 0x2A] := by decide

/-- A table word is run by the very next step after reset (log entry 8). -/
theorem test_withFetchWord_runs_after_reset :
    step (State.reset.withFetchWord 16 0x00E0) =
      exec .cls (((State.reset.withFetchWord 16 0x00E0).setPhase (.cycles 0)).setPc 0x202) := by rfl

/-! ### Control flow -/

/-- T-JP-1 -/
theorem test_jp : (runWord 0x1ABC State.reset).map (fun t => t.pc) = some 0xABC := by decide
/-- T-CALL-1: the pushed value is the address after the CALL -/
theorem test_call : (runWord 0x2300 State.reset).map (fun t => (t.stack.get 0, t.sp, t.pc)) = some (0x202, 1, 0x300) := by decide
/-- T-CALL-3 -/
theorem test_call_full : faultAndPc (runWord 0x2300 (stacked 16)) = some (some .stackOverflow, 0x202) := by decide
/-- T-RET-1 (entry 1 is 0x223 here) -/
theorem test_ret : (runWord 0x00EE (stacked 2)).map (fun t => (t.pc, t.sp)) = some (0x223, 1) := by decide
/-- T-RET-2 -/
theorem test_ret_empty : faultAndPc (runWord 0x00EE State.reset) = some (some .stackUnderflow, 0x202) := by decide
/-- T-SE-1 -/
theorem test_seImm : (runWord 0x332A (r1 3 0x2A)).map (fun t => t.pc) = some 0x204 := by decide
/-- T-SE-2 -/
theorem test_seImm_differs : (runWord 0x332A (r1 3 0x2B)).map (fun t => t.pc) = some 0x202 := by decide
/-- T-SNE-1 -/
theorem test_sneImm : (runWord 0x432A (r1 3 0x2A)).map (fun t => t.pc) = some 0x202 := by decide
/-- T-SNE-2 -/
theorem test_sneImm_differs : (runWord 0x432A (r1 3 0)).map (fun t => t.pc) = some 0x204 := by decide
/-- T-SEV-1 -/
theorem test_seReg : (runWord 0x5120 (r12 7 7)).map (fun t => t.pc) = some 0x204 := by decide
/-- T-SEV-2 -/
theorem test_seReg_differs : (runWord 0x5120 (r12 7 8)).map (fun t => t.pc) = some 0x202 := by decide
/-- T-SNEV-1 -/
theorem test_sneReg : (runWord 0x9120 (r12 7 8)).map (fun t => t.pc) = some 0x204 := by decide
/-- T-SNEV-2 -/
theorem test_sneReg_itself : (runWord 0x9110 (r12 7 8)).map (fun t => t.pc) = some 0x202 := by decide
/-- T-JPV-2: 12 bits plus 8 bits, not masked -/
theorem test_jpV0 : (runWord 0xBFFF (r1 0 0xFF)).map (fun t => t.pc) = some 0x10FE := by decide
/-- T-JPV-3 -/
theorem test_jpV0_is_register_0 : (runWord 0xB300 (r1 3 0x10)).map (fun t => t.pc) = some 0x300 := by decide

/-! ### Registers, arithmetic, logic, shifts, random -/

/-- T-LD-2 -/
theorem test_ldImm : (runWord 0x6FAB State.reset).map (fun t => t.reg VF) = some 0xAB := by decide
/-- T-ADDI-2: wraps, no flag -/
theorem test_addImm : (runWord 0x7001 ((r1 0 0xFF).setReg VF 7)).map (fun t => (t.reg 0, t.reg VF)) = some (0, 7) := by decide
/-- T-MOV-1 -/
theorem test_ldReg : (runWord 0x8120 (r12 0 0x33)).map (fun t => t.reg 1) = some 0x33 := by decide
/-- T-OR-1: VF not reset -/
theorem test_orReg : (runWord 0x8121 ((r12 0x0F 0xF0).setReg VF 1)).map (fun t => (t.reg 1, t.reg VF)) = some (0xFF, 1) := by decide
/-- T-AND-1 -/
theorem test_andReg : (runWord 0x8122 ((r12 0x3C 0x0F).setReg VF 1)).map (fun t => (t.reg 1, t.reg VF)) = some (0x0C, 1) := by decide
/-- T-XOR-1 -/
theorem test_xorReg : (runWord 0x8123 (r12 0xFF 0x0F)).map (fun t => t.reg 1) = some 0xF0 := by decide
/-- T-ADD-2: wraps with carry -/
theorem test_addReg : (runWord 0x8124 (r12 3 0xFF)).map (fun t => (t.reg 1, t.reg VF)) = some (2, 1) := by decide
/-- T-ADD-5: the flag lands last -/
theorem test_addReg_into_VF : (runWord 0x8F14 ((r12 2 0).setReg VF 1)).map (fun t => t.reg VF) = some 0 := by decide
/-- T-SUB-2 -/
theorem test_subReg : (runWord 0x8125 (r12 0 1)).map (fun t => (t.reg 1, t.reg VF)) = some (0xFF, 0) := by decide
/-- T-SUB-1: equal operands do not borrow -/
theorem test_subReg_equal : (runWord 0x8125 (r12 5 5)).map (fun t => (t.reg 1, t.reg VF)) = some (0, 1) := by decide
/-- T-SHR-1: Vy not used -/
theorem test_shr : (runWord 0x8126 (r12 5 0xF0)).map (fun t => (t.reg 1, t.reg VF, t.reg 2)) = some (2, 1, 0xF0) := by decide
/-- T-SHR-4 -/
theorem test_shr_VF : (runWord 0x8F06 (r1 15 2)).map (fun t => t.reg VF) = some 0 := by decide
/-- T-SUBN-1 -/
theorem test_subn : (runWord 0x8127 (r12 2 5)).map (fun t => (t.reg 1, t.reg VF, t.reg 2)) = some (3, 1, 5) := by decide
/-- T-SUBN-2 -/
theorem test_subn_borrow : (runWord 0x8127 (r12 5 2)).map (fun t => (t.reg 1, t.reg VF)) = some (0xFD, 0) := by decide
/-- T-SHL-1 -/
theorem test_shl : (runWord 0x810E (r12 0x80 0)).map (fun t => (t.reg 1, t.reg VF)) = some (0, 1) := by decide
/-- T-SHL-2 -/
theorem test_shl_no_carry : (runWord 0x810E (r12 0x7F 0)).map (fun t => (t.reg 1, t.reg VF)) = some (0xFE, 0) := by decide
/-- T-RND-3: the draw itself, whatever it is. -/
theorem test_rnd : (runWord 0xC1FF State.reset).map (fun t => (t.reg 1, t.rng)) = some (Config.draw8 0 &&& 0xFF, 1) := by
  rfl

/-! ### Index and memory -/

/-- T-LDI-1 -/
theorem test_ldI : (runWord 0xA300 (State.reset.setI 0xFFFF)).map (fun t => t.i) = some 0x300 := by decide
/-- T-ADDIX-2: not masked, no flag -/
theorem test_addI : (runWord 0xF11E ((r12 1 0).setI 0xFFF)).map (fun t => (t.i, t.reg VF)) = some (0x1000, 0) := by decide
/-- T-ADDIX-3 -/
theorem test_addI_wraps : (runWord 0xF11E ((r12 2 0).setI 0xFFFF)).map (fun t => t.i) = some 1 := by decide
/-- T-LDF-1 -/
theorem test_ldF : (runWord 0xF229 (r12 0 3)).map (fun t => t.i) = some 15 := by decide
/-- T-LDF-3: not masked to a nibble -/
theorem test_ldF_all_bits : (runWord 0xF129 (r12 0xFF 0)).map (fun t => t.i) = some 0x4FB := by decide
/-- T-BCD-2: the last address it fits -/
theorem test_ldB : (runWord 0xF133 ((r12 255 0).setI 0xFFD)).map (fun t => (t.byteAt 0xFFD, t.byteAt 0xFFE, t.byteAt 0xFFF)) = some (2, 5, 5) := by decide
/-- T-BCD-3: the whole range is tested first. -/
theorem test_ldB_beyond :
    (runWord 0xF133 ((r12 255 0).setI 0xFFE)).map (fun t => (t.fault, t.byteAt 0xFFE, t.pc))
      = some (some (.memRangeFault 4096), 0, 0x202) := by decide
/-- T-ST-1: V0 and V1, not V2; I stays -/
theorem test_storeRegs : (runWord 0xF155 ((((r12 0xBB 0xCC).setReg 0 0xAA)).setI 0x400)).map (fun t => (t.byteAt 0x400, t.byteAt 0x401, t.byteAt 0x402, t.i)) = some (0xAA, 0xBB, 0, 0x400) := by decide
/-- T-ST-3 -/
theorem test_storeRegs_beyond : faultAndPc (runWord 0xFF55 (State.reset.setI 0xFF1)) = some (some (.memRangeFault 4096), 0x202) := by decide
/-- T-LDM-1 -/
theorem test_loadRegs : (runWord 0xF265 (((r1 3 0x77).setI 0x300).storeBytes 0x300 [1, 2, 3])).map (fun t => (t.reg 0, t.reg 1, t.reg 2, t.reg 3, t.i)) = some (1, 2, 3, 0x77, 0x300) := by decide
/-- T-LDM-4 -/
theorem test_loadRegs_beyond : faultAndPc (runWord 0xF065 (State.reset.setI 0x2000)) = some (some (.memRangeFault 0x2000), 0x202) := by decide

/-! ### Display -/

/-- T-CLS-1 -/
theorem test_cls : (runWord 0x00E0 (withRow (r1 15 1) 31 1)).map (fun t => (t.disp.get 31, t.reg VF)) = some (0, 1) := by decide
/-- T-DRW-10: both edges -/
theorem test_drw_wraps : (runWord 0xD122 (sprite [0xFF, 0x81] 255 255)).map (fun t => (t.disp.get 31, t.disp.get 0, t.reg VF)) = some (0xFE00000000000001, 0x0200000000000001, 0) := by decide
/-- T-DRW-11 -/
theorem test_drw_collides : (runWord 0xD121 (withRow (sprite [0xC0] 0 0) 0 0x8000000000000000)).map (fun t => (t.disp.get 0, t.reg VF)) = some (0x4000000000000000, 1) := by decide

/-! ### Keypad and timers -/

/-- T-SKP-1 -/
theorem test_skp : (runWord 0xE19E (State.withKeys (r12 7 0) (oneKey 7))).map (fun t => t.pc) = some 0x204 := by decide
/-- T-SKP-4: no masking to a nibble -/
theorem test_skp_no_such_key : faultAndPc (runWord 0xE19E (State.withKeys (r12 0x17 0) (oneKey 7))) = some (some (.keyRangeFault 0x17), 0x202) := by decide
/-- T-SKNP-2 -/
theorem test_sknp : (runWord 0xE1A1 (State.withKeys (r12 7 0) (oneKey 7))).map (fun t => t.pc) = some 0x202 := by decide
/-- T-SKNP-3 -/
theorem test_sknp_no_such_key : faultAndPc (runWord 0xE1A1 (r12 0xFF 0)) = some (some (.keyRangeFault 0xFF), 0x202) := by decide
/-- T-KEY-1: the lowest held key -/
theorem test_ldVxK : (runWord 0xF50A (State.withKeys State.reset keys39)).map (fun t => (t.reg 5, t.pc)) = some (3, 0x202) := by decide
/-- T-KEY-2: run again -/
theorem test_ldVxK_no_key : (runWord 0xF50A State.reset).map (fun t => (t.reg 5, t.pc)) = some (0, 0x200) := by decide
/-- T-DT-1 -/
theorem test_ldVxDt : (runWord 0xF107 (State.reset.setDt 0x3C)).map (fun t => t.reg 1) = some 0x3C := by decide
/-- T-DT-2 -/
theorem test_ldDtVx : (runWord 0xF115 (r12 0x3C 0)).map (fun t => t.dt) = some 0x3C := by decide
/-- T-ST-5 -/
theorem test_ldStVx : (runWord 0xF118 (r12 5 0)).map (fun t => t.st) = some 5 := by decide

/-! ### Fetch, frames and the host's operations -/

/-- A state inside a frame with one more cycle, at this `PC`. -/
def cycleAt (pc : Word) : State := (State.reset.setPhase (.cycles 1)).setPc pc

/-- T-FETCH-2 to T-FETCH-4. -/
theorem test_fetch_beyond_memory :
    faultAndPc (nextOf (step (cycleAt 4096))) = some (some (.fetchFault 4096), 4096)
    ∧ faultAndPc (nextOf (step (cycleAt 4095))) = some (some (.memRangeFault 4096), 4095)
    ∧ faultAndPc (nextOf (step (cycleAt 4097))) = some (some (.memRangeFault 4097), 4097) := by decide

/-- T-FETCH-5: an odd address. -/
theorem test_fetch_odd :
    (nextOf (step ((cycleAt 0x201).storeBytes 0x201 [0x60, 0x2A]))).map (fun t => (t.reg 0, t.pc)) = some (0x2A, 0x203) := by
  decide

/-- T-FRM-1: an illegal word leaves `PC` advanced, and no decay. -/
theorem test_illegal_word :
    (nextOf (step ((cycleAt 0x200).setDt 9))).map (fun t => (t.fault, t.pc, t.dt, t.reply))
      = some (some (.unsupportedOpcode 0), 0x202, 9, some (.failed (.unsupportedOpcode 0))) := by decide

/-- T-FRM-3, T-FRM-4: while faulted LOAD is refused, RESET clears. -/
theorem test_faulted_host_operations :
    (nextOf (step ((State.reset.raise .stackUnderflow).setPending [.load [1, 2]]))).map
        (fun t => (t.mem, t.reply)) = some ([], some (.failed .stackUnderflow))
    ∧ (nextOf (step ((State.reset.raise .stackUnderflow).setPending [.reset 0]))).map
        (fun t => (t.fault, t.pc)) = some (none, 0x200) := by decide

/-- T-FRM-7: LOAD copies at 0x200, and a second one covers only its own length. -/
theorem test_load :
    (nextOf (step ((State.reset.storeBytes 0x200 [0x12, 0x07]).setPending [.load [0x60]]))).map
        (fun t => (t.byteAt 0x200, t.byteAt 0x201, t.reply)) = some (0x60, 0x07, some .loadOk) := by decide

/-- S2: the capacity is 3584 bytes (R174). -/
theorem test_rom_capacity : Config.romCapacity = 3584 := by decide

/-- T-TMR-2: one decay of each timer at the end of a frame; at 0 it stays (S6). -/
theorem test_frame_end :
    (nextOf (step (((State.reset.setDt 255).setSt 0).setPhase (.cycles 0)))).map (fun t => (t.dt, t.st, t.phase))
      = some (254, 0, .between) := by decide

/-- T-AUD-2, T-AUD-1: the gate is `ST > 0` at the start of the frame. -/
theorem test_frame_start :
    (nextOf (step ((State.reset.setSt 1).setPending [.stepFrame keys39]))).map (fun t => (t.sndGate, t.key))
        = some (true, keys39)
    ∧ (nextOf (step (State.reset.setPending [.stepFrame keys39]))).map (fun t => t.sndGate) = some false := by decide

/-- T-PIX-1: the leftmost column is bit 63, row 0 first. -/
theorem test_pixels :
    let s := withRow State.reset 0 0xE000000000000001
    s.pixel 0 0 = true ∧ s.pixel 0 3 = false ∧ s.pixel 0 63 = true ∧ s.pixel 1 0 = false := by decide

/-- R58: the default table has 80 bytes, and glyph 3 stands at 15; the font ends at 79. -/
theorem test_font_default :
    Config.fontDefault.length = 80 ∧ (Config.fontDefault.drop 15).take 5 = [0xF0, 0x10, 0xF0, 0x10, 0xF0]
    ∧ State.reset.byteAt 80 = 0 := by decide

/-- R58: under the premise that names `FONT`, memory after reset holds the default table. -/
theorem test_font_under_the_premise (h : Config.FontIsDefault) (a : Nat) (ha : a < 80) :
    State.reset.byteAt a = Config.fontDefault.getD a 0 := by
  rw [← h]
  simp [State.byteAt, State.reset, Memory.readByte, initialByte, ha, Vector.get_eq_getElem]

/-- Writing what an address reads as unlisted takes its entry away (the canonical form). -/
theorem test_memory_canonical :
    Memory.writeBytes [] 0x300 [1, 2] = [(0x300, 1), (0x301, 2)]
    ∧ Memory.writeByte [(0x300, 1), (0x301, 2)] 0x300 0 = [(0x301, 2)] := by decide

/-! ### Witnesses: the hypotheses of each statement can be met -/

theorem witness_DecodeOfEncodeIsTheInstruction :
    (Instr.drw 15 15 15).WellFormed ∧ (Instr.drw 0 0 0).WellFormed := by decide
theorem witness_EncodeOfDecodeIsTheWord :
    decodeWord 0xF065 = some (.loadRegs 0) ∧ decodeWord 0x8FFE = some (.shl 15 15) := by decide
theorem witness_DecodeReadsTwoBytesBigEndian :
    decodeWord ((0x00 : Byte) ++ (0xE0 : Byte)) = some .cls
    ∧ decodeWord ((0xFF : Byte) ++ (0xFF : Byte)) = none
    ∧ ([] : List Byte).length < 2 ∧ ([0xAB] : List Byte).length < 2 := by decide

/-- The last address an instruction fits at, with a legal and an illegal word there, and the first it does not. -/
theorem witness_StepRunsOneCycle :
    (cycleAt 4094).fault = none ∧ (cycleAt 4094).phase = .cycles (0 + 1) ∧ (cycleAt 4094).pc.toNat ≤ 4094
    ∧ (let s := (cycleAt 4094).storeBytes 4094 [0x60, 0x01]
       s.fault = none ∧ s.phase = .cycles (0 + 1)
       ∧ decodeWord (s.byteAt s.pc.toNat ++ s.byteAt (s.pc.toNat + 1)) = some (.ldImm 0 1))
    ∧ decodeWord ((cycleAt 4094).byteAt 4094 ++ (cycleAt 4094).byteAt 4095) = none := by decide

theorem witness_StepRunsOneCycle_fetch_error : (cycleAt 4095).fetch = .error (.memRangeFault 4096) := by rfl

theorem witness_FetchReadsBigEndianWord : (cycleAt 4094).pc.toNat ≤ 4094 ∧ (cycleAt 0).pc.toNat ≤ 4094 := by decide

theorem witness_FetchBeyondMemoryFaults :
    (cycleAt 4095).fault = none ∧ (cycleAt 4095).phase = .cycles (0 + 1) ∧ 4094 < (cycleAt 4095).pc.toNat
    ∧ (cycleAt 4096).pc.toNat = 4096 ∧ 4096 < (cycleAt 4097).pc.toNat ∧ 4096 < (cycleAt 0xFFFF).pc.toNat := by decide

/-- The faults an instruction raises, each from a sound state at the first operand that raises it. -/
theorem witness_FaultsArePrecise :
    State.reset.fault = none ∧ (stacked 16).fault = none ∧ (r12 16 0).fault = none
    ∧ (nextOf (exec .ret State.reset)).map (fun t => t.fault) = some (some .stackUnderflow)
    ∧ (nextOf (exec (.call 0) (stacked 16))).map (fun t => t.fault) = some (some .stackOverflow)
    ∧ (nextOf (exec (.skp 1) (r12 16 0))).map (fun t => t.fault) = some (some (.keyRangeFault 16))
    ∧ (nextOf (exec (.sknp 1) (r12 16 0))).map (fun t => t.fault) = some (some (.keyRangeFault 16)) := by decide

theorem witness_EachFaultHasItsForms :
    (State.reset.setI 0xFFE).fault = none
    ∧ (nextOf (exec (.ldB 1) (State.reset.setI 0xFFE))).map (fun t => t.fault) = some (some (.memRangeFault 4096))
    ∧ (nextOf (exec (.storeRegs 15) (State.reset.setI 0xFF1))).map (fun t => t.fault) = some (some (.memRangeFault 4096))
    ∧ (nextOf (exec (.loadRegs 0) (State.reset.setI 0x1000))).map (fun t => t.fault) = some (some (.memRangeFault 4096))
    ∧ (nextOf (exec (.drw 1 2 15) (State.reset.setI 0xFF2))).map (fun t => t.fault)
        = some (some (.memRangeFault 4096)) := by decide

theorem witness_HostOperationsWhileFaulted :
    (State.reset.raise .stackOverflow).fault = some .stackOverflow ∧ (State.reset.raise .stackOverflow).pending = []
    ∧ ((State.reset.raise .stackOverflow).setPending [.load [0x60], .stepFrame keys39]).pending
        = .load [0x60] :: [.stepFrame keys39] := by decide

theorem witness_HostOperationsWhileFaulted_not_reset : ∀ seed, HostOp.stepFrame keys39 ≠ .reset seed := by
  intro seed h
  cases h

theorem witness_ResetOperationClearsEverything :
    (State.reset.setPending [.reset 7]).phase = .between ∧ (State.reset.setPending [.reset 7]).pending = .reset 7 :: []
    ∧ ((State.reset.raise .stackOverflow).setPending [.reset 7]).fault ≠ none := by decide

/-- Both sides of the capacity. -/
theorem witness_LoadCopiesOrRejects :
    (let s := State.reset.setPending [.load (List.replicate 3583 1)]
     Memory.wf s.mem = true ∧ s.fault = none ∧ s.phase = .between
       ∧ s.pending = .load (List.replicate 3583 1) :: [] ∧ (List.replicate 3583 (1 : Byte)).length ≤ 3583)
    ∧ (State.reset.setPending [.load (List.replicate 3584 1)]).pending = .load (List.replicate 3584 1) :: []
    ∧ 3584 ≤ (List.replicate 3584 (1 : Byte)).length :=
  ⟨⟨rfl, rfl, rfl, rfl, by rw [List.length_replicate]⟩, rfl, by rw [List.length_replicate]⟩

theorem witness_FrameStartLatchesKeysAndGate :
    let s := State.reset.setPending [.stepFrame keys39]
    s.fault = none ∧ s.phase = .between ∧ s.pending = .stepFrame keys39 :: [] := by decide

/-- A loop at the reset `PC` (`1200`), its host asking for a frame. -/
def looping : State := (State.reset.storeBytes 0x200 [0x12, 0x00]).setPending [.stepFrame keys39]

/-- The latch step of `looping`, and its first cycle: no fault up to there. -/
theorem witness_FrameRunsItsCycles :
    looping.fault = none ∧ looping.phase = .between ∧ looping.pending = .stepFrame keys39 :: []
    ∧ 1 ≤ Config.cyclesPerFrame
    ∧ (∀ (m : Nat) (u : State), m ≤ 1 → Host.Core.run Sys2Proof.core (m + 1) looping = .next u → u.fault = none)
    ∧ ∃ t : State, Host.Core.run Sys2Proof.core (1 + 1) looping = .next t := by
  refine ⟨rfl, rfl, rfl, Nat.le_add_left _ _, ?_, _, rfl⟩
  intro m u hm h
  match m, hm with
  | 0, _ => injection h with h; subst h; rfl
  | 1, _ => injection h with h; subst h; rfl

theorem witness_FrameEndDecaysAndEmits :
    (State.reset.setPhase (.cycles 0)).fault = none ∧ (State.reset.setPhase (.cycles 0)).phase = .cycles 0 := by decide

theorem witness_PixelBufferIsRowMajor :
    (2047 : Fin 2048).val = (31 : Fin 32).val * 64 + (63 : Fin 64).val
    ∧ (64 : Fin 2048).val = (1 : Fin 32).val * 64 + (0 : Fin 64).val := by decide

theorem witness_AudioBlockFollowsTheGate :
    State.reset.sndGate = false ∧ (State.reset.beginFrame keys39).sndGate = false
    ∧ ((State.reset.setSt 1).beginFrame keys39).sndGate = true ∧ 0 < 2 * Config.samplesPerFrame :=
  ⟨rfl, rfl, rfl, Nat.mul_pos (by decide) (Nat.succ_pos _)⟩

/-- A cycle that writes `DT`, and one that writes `ST`. -/
theorem witness_KeysAndTimersStandStillInAFrame :
    (let s := (r12 5 0).withFetchWord 16 0xF115
     s.fault = none ∧ s.phase = .cycles (0 + 1) ∧ (nextOf (step s)).map (fun t => decide (t.dt ≠ s.dt)) = some true)
    ∧ (let s := (r12 5 0).withFetchWord 16 0xF118
       s.fault = none ∧ s.phase = .cycles (0 + 1) ∧ (nextOf (step s)).map (fun t => decide (t.st ≠ s.st)) = some true) := by
  decide

theorem witness_IdleMachineHoldsItsState :
    (State.reset.setDt 5).fault = none ∧ (State.reset.setDt 5).phase = .between ∧ (State.reset.setDt 5).pending = [] := by
  decide

/-- A state of the invariant with a cell of memory, a stack entry and a frame in progress, at the last `PC`. -/
def busy : State := ((stacked 1).storeBytes 0x300 [7]).setPhase (.cycles 1)

theorem witness_StepKeepsTheInvariant : busy.Inv ∧ ∃ t : State, step busy = .next t := by
  refine ⟨⟨by decide, by decide, by decide, fun h => absurd rfl h, fun k h => ?_⟩, _, rfl⟩
  injection h with h
  subst h
  exact Nat.le_add_left _ _

/-- An effect, and a fault. -/
theorem witness_FormsWriteOnlyTheirParts :
    (∃ t : State, exec (.loadRegs 15) State.reset = .next t)
    ∧ (∃ t : State, exec (.loadRegs 15) (State.reset.setI 0xFF1) = .next t) := ⟨⟨_, rfl⟩, ⟨_, rfl⟩⟩

/-- A register that changes: the destination, the last of a range, the flag. -/
theorem witness_RegistersWrittenOnlyByTheirForms :
    (nextOf (exec (.ldImm 3 1) State.reset)).map (fun t => decide (t.reg 3 ≠ State.reset.reg 3)) = some true
    ∧ (nextOf (exec (.loadRegs 1) ((State.reset.setI 0x300).storeBytes 0x300 [1, 2]))).map
        (fun t => decide (t.reg 1 ≠ State.reset.reg 1)) = some true
    ∧ (nextOf (exec (.shl 1 2) (r12 0x80 0))).map (fun t => decide (t.reg VF ≠ State.reset.reg VF)) = some true := by
  decide

/-- Either side of the carry, into a plain register and into `VF`. -/
theorem witness_AddSetsCarry :
    256 ≤ ((r12 0xFF 1).reg 1).toNat + ((r12 0xFF 1).reg 2).toNat
    ∧ ¬ 256 ≤ ((r12 0xFF 0).reg 1).toNat + ((r12 0xFF 0).reg 2).toNat ∧ (1 : Reg) ≠ VF := by decide

/-- Either side of the borrow. -/
theorem witness_SubtractSetsNotBorrow :
    ((r12 5 5).reg 2).toNat ≤ ((r12 5 5).reg 1).toNat ∧ ¬ ((r12 4 5).reg 2).toNat ≤ ((r12 4 5).reg 1).toNat
    ∧ ((r12 5 5).reg 1).toNat ≤ ((r12 5 5).reg 2).toNat ∧ ¬ ((r12 5 4).reg 1).toNat ≤ ((r12 5 4).reg 2).toNat := by decide

/-- Either value of the bit moved out. -/
theorem witness_ShiftsMoveVxByOne :
    ((r12 1 0).reg 1).toNat % 2 = 1 ∧ ¬ ((r12 2 0).reg 1).toNat % 2 = 1
    ∧ 128 ≤ ((r12 0x80 0).reg 1).toNat ∧ ¬ 128 ≤ ((r12 0x7F 0).reg 1).toNat := by decide

theorem witness_CallPushesTheNextAddress : (stacked 15).sp.val < 16 ∧ (stacked 0).sp.val < 16 := by decide

theorem witness_ReturnPopsThePc : (stacked 16).sp.val ≠ 0 ∧ (stacked 1).sp.val ≠ 0 := by decide

theorem witness_StackBoundsFault : (stacked 16).sp = 16 ∧ (stacked 0).sp = 0 := by decide

theorem witness_ReturnUndoesCall : (stacked 15).sp.val < 16 := by decide

theorem witness_SixteenCallsNest : State.reset.sp = 0 ∧ (16 : Nat) ≤ 16 ∧ (0 : Nat) ≤ 16 := by decide

/-- Either side of each comparison. -/
theorem witness_ComparesSkip :
    (r12 7 7).reg 1 = 7 ∧ (r12 7 7).reg 1 ≠ 8 ∧ (r12 7 7).reg 1 = (r12 7 7).reg 2 ∧ (r12 7 8).reg 1 ≠ (r12 7 8).reg 2 := by
  decide

theorem witness_DecimalDigitsAreStored :
    Memory.wf (State.reset.setI 0xFFD).mem = true ∧ (State.reset.setI 0xFFD).dataBase + 2 ≤ 4095 := by decide

theorem witness_BlockStoreWritesV0ToVx :
    Memory.wf (State.reset.setI 0xFF0).mem = true ∧ (State.reset.setI 0xFF0).dataBase + (15 : Reg).val ≤ 4095 := by decide

theorem witness_BlockLoadReadsV0ToVx :
    (State.reset.setI 0xFFF).dataBase + (0 : Reg).val ≤ 4095 ∧ (State.reset.setI 0xFF0).dataBase + (15 : Reg).val ≤ 4095 := by
  decide

theorem witness_OutOfRangeAccessFaults :
    4095 < (State.reset.setI 0xFFE).dataBase + 2 ∧ 4095 < (State.reset.setI 0xFF1).dataBase + (15 : Reg).val
    ∧ 4095 < (State.reset.setI 0x1000).dataBase + (0 : Reg).val
    ∧ 4095 < (State.reset.setI 0x1000).dataBase + 1 - 1 ∧ 4095 < (State.reset.setI 0xFF2).dataBase + 15 - 1 := by decide

/-- Stores that end at the top of memory over both bytes of the word, and ones that meet the word in one byte only. -/
theorem witness_StoreIsSeenByTheNextFetch :
    (let s := (State.reset.setI 0xFF0).setPc 0xFFE
     Memory.wf s.mem = true ∧ s.pc.toNat ≤ 4094 ∧ s.dataBase + (15 : Reg).val ≤ 4095 ∧ (15 : Reg) ≤ 15
       ∧ s.pc.toNat = s.dataBase + (14 : Reg).val ∧ s.pc.toNat + 1 = s.dataBase + (15 : Reg).val)
    ∧ (let s := (State.reset.setI 0xFFD).setPc 0xFFE
       s.dataBase + 2 ≤ 4095 ∧ s.pc.toNat = s.dataBase + 1 ∧ s.pc.toNat + 1 = s.dataBase + 2)
    ∧ (let s := (State.reset.setI 0x300).setPc 0x2FF
       s.pc.toNat < s.dataBase ∧ s.pc.toNat + 1 = s.dataBase + (0 : Reg).val)
    ∧ (let s := (State.reset.setI 0x300).setPc 0x302
       s.pc.toNat = s.dataBase + 2 ∧ s.dataBase + 3 ≤ s.pc.toNat + 1) := by decide

/-- P7 of the vectors: the byte stored at 0x206 is the high byte of the next word. -/
theorem test_store_seen_by_fetch :
    (nextOf (exec (.storeRegs 0) (((r1 0 0x12).setI 0x206).setPc 0x206))).map
      (fun t => match t.fetch with | .ok (op, u) => (op, u.pc) | .error _ => (0, 0)) = some (0x1200, 0x208) := by decide

/-- A full sprite at the top of memory, and no row at an address beyond it. -/
theorem witness_DrawTogglesTheSpritePixels :
    (State.reset.setI 0xFF1).dataBase + 15 - 1 ≤ 4095 ∧ (15 : Nat) < 16
    ∧ ((0 : Nat) = 0 ∨ (State.reset.setI 0x2000).dataBase + 0 - 1 ≤ 4095) := by decide

theorem witness_DrawTwiceRestoresTheDisplay :
    (1 : Reg) ≠ VF ∧ (2 : Reg) ≠ VF ∧ (1 : Nat) < 16 ∧ (sprite [0xF0] 0 0).dataBase + 1 - 1 ≤ 4095
    ∧ (∀ r : Fin 32, (sprite [0xF0] 0 0).disp.get r = 0)
    ∧ (sprite [0xF0] 0 0).byteAt ((sprite [0xF0] 0 0).dataBase + 0) ≠ 0
    ∧ (sprite [] 0 0).byteAt ((sprite [] 0 0).dataBase + 0) = 0 := by decide

theorem witness_KeySkipsFollowTheSnapshot :
    (15 : Fin 16).val = ((r12 15 0).reg 1).toNat ∧ (State.withKeys (r12 15 0) (oneKey 15)).key.get 15 = true
    ∧ (r12 15 0).key.get 15 = false := by decide

theorem witness_KeyNumberAbove15Faults : 15 < ((r12 16 0).reg 1).toNat := by decide

theorem witness_KeyWaitTakesTheLowestKey :
    (State.withKeys State.reset (oneKey 15)).key.get 15 = true
    ∧ (∀ k : Fin 16, k < 15 → (State.withKeys State.reset (oneKey 15)).key.get k = false)
    ∧ (∀ j : Fin 16, State.reset.key.get j = false) := by decide

theorem witness_KeyWaitRunsAgain :
    let s := State.reset.withFetchWord 16 0xF50A
    s.fault = none ∧ s.phase = .cycles (0 + 1) ∧ s.pc.toNat ≤ 4094
      ∧ decodeWord (s.byteAt s.pc.toNat ++ s.byteAt (s.pc.toNat + 1)) = some (.ldVxK 5)
      ∧ ∀ j : Fin 16, s.key.get j = false := by decide

/-- A form that reads no timer, and the one that writes `ST`. -/
theorem witness_SoundTimerIsReadByNoInstruction :
    (∃ t : State, exec (.ldVxDt 1) State.reset = .next t) ∧ (∀ x, Instr.ldVxDt 1 ≠ .ldStVx x)
    ∧ (∃ t : State, exec (.ldStVx 1) State.reset = .next t) ∧ ∃ x, Instr.ldStVx 1 = .ldStVx x :=
  ⟨⟨_, rfl⟩, fun _ h => (nomatch h), ⟨_, rfl⟩, 1, rfl⟩

theorem witness_OnlyRndReadsTheGenerator :
    (∃ t : State, exec .cls State.reset = .next t) ∧ ∀ x kk, Instr.cls ≠ .rnd x kk :=
  ⟨⟨_, rfl⟩, fun _ _ h => (nomatch h)⟩

/-- The longest ROM and the shortest, and a legal first word. -/
theorem witness_FirstInstructionIsTheRomsFirstWord :
    (0x12 :: 0x00 :: List.replicate 3581 (1 : Byte)).length ≤ 3583 ∧ (0x12 :: 0x00 :: ([] : List Byte)).length ≤ 3583
    ∧ decodeWord ((0x12 : Byte) ++ (0x00 : Byte)) = some (.jp 0x200) :=
  ⟨by rw [List.length_cons, List.length_cons, List.length_replicate], by decide, by decide⟩

/-- The ends of the byte at a column that wraps, and a bit outside it. -/
theorem witness_SpriteByteIsPlacedCircularly :
    (0 : Nat) < 8 ∧ (7 : Nat) < 8 ∧ ∀ j : Nat, j < 8 → (1 : Nat) ≠ 63 - (((r12 63 0).reg 1).toNat + j) % 64 := by decide

/-- The last row of a full sprite, on a display row that wraps, and a row that no sprite row falls on. -/
theorem witness_SpriteRowsFallOnTheirDisplayRows :
    (15 : Nat) < 16 ∧ (14 : Nat) < 15 ∧ (13 : Fin 32).val = (((r12 0 31).reg 2).toNat + 14) % 32
    ∧ ∀ r : Nat, r < 15 → (30 : Fin 32).val ≠ (((r12 0 31).reg 2).toNat + r) % 32 := by decide

end Sys2Proof.Tests
end

section
/-! What an instruction can do to the state, said once, and what a family of statements about the state
(spec/10_state.md) follows from it: the parts and the registers each form writes, the invariant, the parts no
instruction reads, and the state after RESET. -/

namespace Sys2Proof.Machine

/-! ### Comparing states part by part -/

/-- A part kept twice in a row is kept. -/
theorem Part.kept.trans {p : Part} {s t u : State} (h : p.kept s t) (h' : p.kept t u) : p.kept s u := by
  cases p <;> simp_all [Part.kept]

/-- Keeping all but fewer parts is the stronger statement. -/
theorem KeepsAllBut.mono {ps qs : List Part} {s t : State} (h : KeepsAllBut ps s t) (hsub : ps ⊆ qs) :
    KeepsAllBut qs s t :=
  fun p hp => h p (fun hmem => hp (hsub hmem))

/-- Two changes in a row touch the parts that either touches. -/
theorem KeepsAllBut.trans {ps qs : List Part} {s t u : State} (h : KeepsAllBut ps s t) (h' : KeepsAllBut qs t u) :
    KeepsAllBut (ps ++ qs) s u :=
  fun p hp => (h p (fun hmem => hp (List.mem_append_left qs hmem))).trans
    (h' p (fun hmem => hp (List.mem_append_right ps hmem)))

/-! One rule per named update: the parts it leaves. -/

theorem keepsAllBut_setRegs (s : State) (v : Vector Byte 16) : KeepsAllBut [.regs] s (s.setRegs v) := by
  intro p hp
  cases p <;> simp_all [Part.kept]

theorem keepsAllBut_setI (s : State) (w : Word) : KeepsAllBut [.index] s (s.setI w) := by
  intro p hp
  cases p <;> simp_all [Part.kept]

theorem keepsAllBut_setPc (s : State) (w : Word) : KeepsAllBut [.pc] s (s.setPc w) := by
  intro p hp
  cases p <;> simp_all [Part.kept]

theorem keepsAllBut_setStack (s : State) (sp : Fin 17) (e : Vector Word 16) :
    KeepsAllBut [.stack] s (s.setStack sp e) := by
  intro p hp
  cases p <;> simp_all [Part.kept]

theorem keepsAllBut_setDt (s : State) (b : Byte) : KeepsAllBut [.delay] s (s.setDt b) := by
  intro p hp
  cases p <;> simp_all [Part.kept]

theorem keepsAllBut_setSt (s : State) (b : Byte) : KeepsAllBut [.sound] s (s.setSt b) := by
  intro p hp
  cases p <;> simp_all [Part.kept]

theorem keepsAllBut_setDisp (s : State) (d : Vector RowBits 32) : KeepsAllBut [.display] s (s.setDisp d) := by
  intro p hp
  cases p <;> simp_all [Part.kept]

theorem keepsAllBut_storeBytes (s : State) (a : Nat) (bs : List Byte) :
    KeepsAllBut [.memory] s (s.storeBytes a bs) := by
  intro p hp
  cases p <;> simp_all [Part.kept]

theorem keepsAllBut_draw (s : State) : KeepsAllBut [.rng] s s.draw.2 := by
  intro p hp
  cases p <;> simp_all [Part.kept]

theorem keepsAllBut_setPhase (s : State) (ph : Phase) : KeepsAllBut [.phase] s (s.setPhase ph) := by
  intro p hp
  cases p <;> simp_all [Part.kept]

theorem keepsAllBut_raise (s : State) (f : Fault) : KeepsAllBut [.fault, .phase, .reply] s (s.raise f) := by
  intro p hp
  cases p <;> simp_all [Part.kept]

/-! ### The forms whose meaning branches, an equation per branch -/

section
variable {s t : State} {x : Reg}

theorem exec_ret_of_pop {w : Word} (e : s.pop = some (w, t)) : exec .ret s = .next (t.setPc w) := by
  simp only [exec, execRet, e]

theorem exec_ret_of_empty (e : s.pop = none) : exec .ret s = .next (s.raise .stackUnderflow) := by
  simp only [exec, execRet, e]

theorem exec_call_of_push {nnn : BitVec 12} (e : s.push s.pc = some t) :
    exec (.call nnn) s = .next (t.setPc (nnn.setWidth 16)) := by
  simp only [exec, execCall, e]

theorem exec_call_of_full {nnn : BitVec 12} (e : s.push s.pc = none) :
    exec (.call nnn) s = .next (s.raise .stackOverflow) := by
  simp only [exec, execCall, e]

theorem exec_skp_of_key {held : Bool} (e : s.keyHeld (s.reg x) = some held) :
    exec (.skp x) s = .next (s.skipIf held) := by
  simp only [exec, execSkp, e]

theorem exec_skp_of_noKey (e : s.keyHeld (s.reg x) = none) :
    exec (.skp x) s = .next (s.raise (.keyRangeFault (s.reg x))) := by
  simp only [exec, execSkp, e]

theorem exec_sknp_of_key {held : Bool} (e : s.keyHeld (s.reg x) = some held) :
    exec (.sknp x) s = .next (s.skipIf (!held)) := by
  simp only [exec, execSknp, e]

theorem exec_sknp_of_noKey (e : s.keyHeld (s.reg x) = none) :
    exec (.sknp x) s = .next (s.raise (.keyRangeFault (s.reg x))) := by
  simp only [exec, execSknp, e]

theorem exec_ldVxK_of_held {j : Fin 16} (e : s.lowestKey = some j) :
    exec (.ldVxK x) s = .next (s.setReg x (BitVec.ofNat 8 j.val)) := by
  simp only [exec, execLdVxK, e]

theorem exec_ldVxK_of_none (e : s.lowestKey = none) : exec (.ldVxK x) s = .next (s.setPc (s.pc - 2)) := by
  simp only [exec, execLdVxK, e]

end

/-! ### What an instruction can do -/

/-- What the instruction `i` can do to `s`, one constructor per shape of effect. Each carries what the statements
below need of it: that `i` may write the parts it changes, that the other registers stay, where `PC` can go, that a
store fits in memory. -/
inductive Effect (i : Instr) (s : State) : State → Prop where
  /-- A fault, and nothing else (R208). -/
  | raise (f : Fault) : Effect i s (s.raise f)
  /-- Registers only. -/
  | regs (v : Vector Byte 16) (hp : .regs ∈ formParts i) (hv : ∀ j : Reg, ¬ formWrites i j → v.get j = s.reg j) :
      Effect i s (s.setRegs v)
  /-- Registers after one draw (R131). -/
  | draw (v : Vector Byte 16) (hp : .regs ∈ formParts i) (hr : .rng ∈ formParts i)
      (hv : ∀ j : Reg, ¬ formWrites i j → v.get j = s.reg j) : Effect i s (s.draw.2.setRegs v)
  /-- The display only (R150). -/
  | display (d : Vector RowBits 32) (hd : .display ∈ formParts i) : Effect i s (s.setDisp d)
  /-- The display and registers (R151). -/
  | sprite (d : Vector RowBits 32) (v : Vector Byte 16) (hd : .display ∈ formParts i) (hp : .regs ∈ formParts i)
      (hv : ∀ j : Reg, ¬ formWrites i j → v.get j = s.reg j) : Effect i s ((s.setDisp d).setRegs v)
  /-- `PC` only; after a fetch, which leaves it between 2 and 4096, it goes no further than 0x10FE (R22). -/
  | jump (w : Word) (hp : .pc ∈ formParts i) (hw : 2 ≤ s.pc.toNat → s.pc.toNat ≤ 4096 → w.toNat ≤ 0x10FE) :
      Effect i s (s.setPc w)
  /-- `PC` pushed and set (R102). -/
  | call (h : s.sp.val < 16) (w : Word) (hp : .pc ∈ formParts i) (hs : .stack ∈ formParts i)
      (hw : w.toNat ≤ 0x10FE) :
      Effect i s ((s.setStack ⟨s.sp.val + 1, by omega⟩ (s.stack.set s.sp.val s.pc h)).setPc w)
  /-- `PC` popped (R100). -/
  | ret (h : s.sp.val ≠ 0) (hp : .pc ∈ formParts i) (hs : .stack ∈ formParts i) :
      Effect i s ((s.setStack ⟨s.sp.val - 1, by omega⟩ s.stack).setPc (s.stack[s.sp.val - 1]'(by omega)))
  /-- `I` only. -/
  | index (w : Word) (hp : .index ∈ formParts i) : Effect i s (s.setI w)
  /-- `DT` only. -/
  | delay (b : Byte) (hp : .delay ∈ formParts i) : Effect i s (s.setDt b)
  /-- `ST` only. -/
  | sound (b : Byte) (hp : .sound ∈ formParts i) : Effect i s (s.setSt b)
  /-- Bytes of memory, inside the 4096 addresses (R56). -/
  | memory (a : Nat) (bs : List Byte) (hp : .memory ∈ formParts i) (hfits : a + bs.length ≤ 4096) :
      Effect i s (s.storeBytes a bs)

section
variable {i : Instr} {s : State}

/-- Writing a register the form may write. -/
theorem Effect.setReg {x : Reg} {b : Byte} (hp : .regs ∈ formParts i) (hx : formWrites i x) :
    Effect i s (s.setReg x b) :=
  .regs _ hp fun _ hj => State.reg_setReg_ne s b fun e => hj (e ▸ hx)

/-- Writing a register and the flag, where the form may write both (R24). -/
theorem Effect.setRegFlag {x : Reg} {r : Byte} {c : Bool} (hp : .regs ∈ formParts i) (hx : formWrites i x)
    (hf : formWrites i VF) : Effect i s (s.setRegFlag x r c) := by
  refine .regs _ hp fun j hj => ?_
  have hjf : j ≠ VF := fun e => hj (e ▸ hf)
  have hjx : j ≠ x := fun e => hj (e ▸ hx)
  exact (State.reg_setRegFlag s x r c j).trans (by rw [if_neg hjf, if_neg hjx])

/-- Moving on by 2 inside memory does not wrap. -/
theorem toNat_add_two {w : Word} (h : w.toNat ≤ 4096) : (w + 2).toNat = w.toNat + 2 :=
  BitVec.toNat_add_of_lt (show w.toNat + 2 < 2 ^ 16 by omega)

/-- A skip goes at most 2 beyond where the fetch left `PC`. -/
theorem Effect.skipIf {c : Bool} (hp : .pc ∈ formParts i) : Effect i s (s.skipIf c) := by
  rw [State.skipIf_eq]
  refine .jump _ hp fun _ hle => ?_
  cases c
  · exact Nat.le_trans hle (by decide)
  · rw [if_pos rfl, toNat_add_two hle]
    omega

/-- A guarded access has the effect it guards, which may use that the range is inside memory, or raises (R56). -/
theorem Effect.inRange {n : Nat} {k : State} (hk : n = 0 ∨ s.dataBase + n ≤ 4096 → Effect i s k) :
    ∃ t, s.inRange n k = .next t ∧ Effect i s t := by
  obtain ⟨h, e⟩ | ⟨_, _, e⟩ := s.inRange_cases n k
  · exact ⟨k, e, hk h⟩
  · exact ⟨_, e, .raise _⟩

end

/-- An address operand as a word is at most 4095. -/
theorem toNat_setWidth_address_le (nnn : BitVec 12) : (nnn.setWidth 16).toNat ≤ 4095 := by
  have := nnn.isLt
  rw [BitVec.toNat_setWidth]
  omega

/-- Every instruction answers a next state, by one of the effects its form may have. -/
theorem exec_answers (i : Instr) (s : State) : ∃ t, exec i s = .next t ∧ Effect i s t := by
  have mem {p : Part} {ps : List Part} : p ∈ p :: ps := List.mem_cons_self
  have mem₂ {p q : Part} {ps : List Part} : p ∈ q :: p :: ps := List.mem_cons_of_mem _ mem
  cases i with
  | cls => exact ⟨_, rfl, .display _ mem⟩
  | ret =>
    obtain ⟨h, e⟩ | ⟨_, e⟩ := s.pop_cases
    · exact ⟨_, exec_ret_of_pop e, .ret h mem mem₂⟩
    · exact ⟨_, exec_ret_of_empty e, .raise _⟩
  | call nnn =>
    obtain ⟨h, e⟩ | ⟨_, e⟩ := s.push_cases s.pc
    · exact ⟨_, exec_call_of_push e,
        .call h _ mem mem₂ (Nat.le_trans (toNat_setWidth_address_le nnn) (by decide))⟩
    · exact ⟨_, exec_call_of_full e, .raise _⟩
  | jp nnn => exact ⟨_, rfl, .jump _ mem fun _ _ => Nat.le_trans (toNat_setWidth_address_le nnn) (by decide)⟩
  | jpV0 nnn =>
    refine ⟨_, rfl, .jump _ mem fun _ _ => ?_⟩
    have := nnn.isLt
    have := (s.reg 0).isLt
    rw [BitVec.toNat_add, BitVec.toNat_setWidth, BitVec.toNat_setWidth]
    omega
  | seImm x kk | sneImm x kk | seReg x y | sneReg x y => exact ⟨_, rfl, .skipIf mem⟩
  | ldImm x kk | ldReg x y | addImm x kk | orReg x y | andReg x y | xorReg x y | ldVxDt x =>
    exact ⟨_, rfl, .setReg mem rfl⟩
  | addReg x y | subReg x y | shr x y | subn x y | shl x y =>
    exact ⟨_, rfl, .setRegFlag mem (.inl rfl) (.inr rfl)⟩
  | ldI nnn | addI x | ldF x => exact ⟨_, rfl, .index _ mem⟩
  | rnd x kk => exact ⟨_, rfl, .draw _ mem mem₂ fun _ hj => State.reg_setReg_ne s _ hj⟩
  | drw x y n =>
    exact Effect.inRange fun _ => .sprite _ _ mem₂ mem fun _ hj => State.reg_setReg_ne s _ hj
  | skp x =>
    cases e : s.keyHeld (s.reg x) with
    | some held => exact ⟨_, exec_skp_of_key e, .skipIf mem⟩
    | none => exact ⟨_, exec_skp_of_noKey e, .raise _⟩
  | sknp x =>
    cases e : s.keyHeld (s.reg x) with
    | some held => exact ⟨_, exec_sknp_of_key e, .skipIf mem⟩
    | none => exact ⟨_, exec_sknp_of_noKey e, .raise _⟩
  | ldDtVx x => exact ⟨_, rfl, .delay _ mem⟩
  | ldStVx x => exact ⟨_, rfl, .sound _ mem⟩
  | ldVxK x =>
    cases e : s.lowestKey with
    | some j => exact ⟨_, exec_ldVxK_of_held e, .setReg mem rfl⟩
    | none =>
      refine ⟨_, exec_ldVxK_of_none e, .jump _ mem₂ fun h2 hle => ?_⟩
      rw [BitVec.toNat_sub_of_le h2]
      exact Nat.le_trans (Nat.sub_le _ _) (Nat.le_trans hle (by decide))
  | ldB x =>
    refine Effect.inRange fun h => .memory _ _ mem ?_
    simp only [decimalDigits, List.length_cons, List.length_nil]
    omega
  | storeRegs x =>
    refine Effect.inRange fun h => .memory _ _ mem ?_
    rw [rangeLength] at h
    rw [State.regsUpTo_length]
    omega
  | loadRegs x =>
    exact Effect.inRange fun _ => .regs _ mem fun j hj => (State.loadedRegs_get s x j).trans (if_neg hj)

/-- What an instruction answered is one of the effects its form may have. -/
theorem Effect.of_exec {i : Instr} {s t : State} (h : exec i s = .next t) : Effect i s t := by
  obtain ⟨u, hu, heff⟩ := exec_answers i s
  obtain rfl : t = u := Host.Outcome.next.inj (h.symm.trans hu)
  exact heff

/-! ### The invariant -/

section
variable {s : State}

/-- A raise ends the frame and changes nothing else the invariant speaks of. -/
theorem State.Inv.raise (hs : s.Inv) (f : Fault) : (s.raise f).Inv :=
  ⟨hs.mem, hs.pc, hs.stack, fun _ => rfl, fun _ h => nomatch h⟩

/-- A new `PC` within its bound keeps the invariant. -/
theorem State.Inv.setPc (hs : s.Inv) {w : Word} (hw : w.toNat ≤ 0x10FE) : (s.setPc w).Inv :=
  ⟨hs.mem, hw, hs.stack, hs.latch, hs.left⟩

/-- A store inside the 4096 addresses keeps the invariant. -/
theorem State.Inv.storeBytes (hs : s.Inv) {a : Nat} {bs : List Byte} (h : a + bs.length ≤ 4096) :
    (s.storeBytes a bs).Inv :=
  ⟨Memory.wf_writeBytes hs.mem h, hs.pc, hs.stack, hs.latch, hs.left⟩

/-- Pushing an address of at most 4096 keeps the invariant. -/
theorem State.Inv.push (hs : s.Inv) {w : Word} (hw : w.toNat ≤ 4096) (h : s.sp.val < 16) :
    (s.setStack ⟨s.sp.val + 1, by omega⟩ (s.stack.set s.sp.val w h)).Inv := by
  refine ⟨hs.mem, hs.pc, fun j hj => ?_, hs.latch, hs.left⟩
  rw [State.setStack_stack, Vector.get_eq_getElem]
  have hj' : j.val < s.sp.val + 1 := hj
  by_cases e : s.sp.val = j.val
  · simpa [e] using hw
  · rw [Vector.getElem_set_ne _ _ e]
    exact hs.stack j (by omega)

/-- Dropping the top entry keeps the invariant. -/
theorem State.Inv.pop (hs : s.Inv) : (s.setStack ⟨s.sp.val - 1, by omega⟩ s.stack).Inv :=
  ⟨hs.mem, hs.pc, fun j hj => hs.stack j (Nat.lt_of_lt_of_le hj (Nat.sub_le _ _)), hs.latch, hs.left⟩

/-- The address that RET takes to `PC` is at most 4096. -/
theorem State.Inv.top_le (hs : s.Inv) (h : s.sp.val ≠ 0) : (s.stack[s.sp.val - 1]'(by omega)).toNat ≤ 4096 :=
  hs.stack ⟨s.sp.val - 1, by omega⟩ (Nat.sub_one_lt h)

/-- An instruction run after a fetch, which left `PC` between 2 and 4096, keeps the invariant. -/
theorem Effect.keeps_inv {i : Instr} {t : State} (heff : Effect i s t) (hs : s.Inv) (h2 : 2 ≤ s.pc.toNat)
    (hle : s.pc.toNat ≤ 4096) : t.Inv := by
  cases heff with
  | raise f => exact hs.raise f
  | jump w _ hw => exact hs.setPc (hw h2 hle)
  | call h w _ _ hw => exact (hs.push hle h).setPc hw
  | ret h => exact hs.pop.setPc (Nat.le_trans (hs.top_le h) (by decide))
  | memory a bs _ hfits => exact hs.storeBytes hfits
  | regs | draw | display | sprite | index | delay | sound => exact ⟨hs.mem, hs.pc, hs.stack, hs.latch, hs.left⟩

/-- Moving on inside a frame keeps the invariant. -/
theorem State.Inv.setPhase_cycles (hs : s.Inv) {left : Nat} (hf : s.fault = none)
    (hleft : left ≤ Config.cyclesPerFrame) : (s.setPhase (.cycles left)).Inv :=
  ⟨hs.mem, hs.pc, hs.stack, fun h => absurd hf h, fun k h => by cases h; exact hleft⟩

/-- A cycle that answers a next state keeps the invariant. -/
theorem cycle_keeps_inv {t : State} (hs : s.Inv) (h : cycle s = .next t) : t.Inv := by
  have fetched {op : Word} {u : State} (hf : s.fetch = .ok (op, u)) :
      u.Inv ∧ 2 ≤ u.pc.toNat ∧ u.pc.toNat ≤ 4096 := by
    obtain ⟨hpc, e⟩ | ⟨_, e⟩ | ⟨_, _, e⟩ := s.fetch_cases
    · obtain rfl : s.setPc (s.pc + 2) = u := by rw [e] at hf; cases hf; rfl
      rw [State.setPc_pc, toNat_add_two (by omega)]
      exact ⟨hs.setPc (by rw [toNat_add_two (by omega)]; omega), by omega, by omega⟩
    · rw [e] at hf; cases hf
    · rw [e] at hf; cases hf
  obtain ⟨f, _, e⟩ | ⟨op, u, hf, _, e⟩ | ⟨op, u, i, hf, _, e⟩ := cycle_cases s
  · cases e.symm.trans h
    exact hs.raise f
  · cases e.symm.trans h
    exact (fetched hf).1.raise _
  · obtain ⟨hu, h2, hle⟩ := fetched hf
    exact (Effect.of_exec (e.symm.trans h)).keeps_inv hu h2 hle

/-- The reset state meets the invariant. -/
theorem State.Inv.reset : State.reset.Inv :=
  ⟨Memory.wf_reset, by decide, fun j h => absurd h (Nat.not_lt_zero j.val), fun h => absurd rfl h,
    fun _ h => nomatch h⟩

/-- A ROM that LOAD accepts fits in memory (R175). -/
theorem State.performLoad_of_fits {rom : List Byte} (s : State) (h : rom.length ≤ 3583) :
    s.performLoad rom = (s.storeBytes 0x200 rom).setReply (some .loadOk) :=
  if_neg (show ¬ 3584 ≤ rom.length by omega)

/-- A ROM that LOAD rejects changes nothing but the reply (R174). -/
theorem State.performLoad_of_large {rom : List Byte} (s : State) (h : 3584 ≤ rom.length) :
    s.performLoad rom = s.setReply (some (.failed .loadError)) :=
  if_pos h

/-- A reply is no part of the invariant. -/
theorem State.Inv.setReply (hs : s.Inv) (r : Option Reply) : (s.setReply r).Inv :=
  ⟨hs.mem, hs.pc, hs.stack, hs.latch, hs.left⟩

/-- Nor is what the host asks for. -/
theorem State.Inv.setPending (hs : s.Inv) (ops : List HostOp) : (s.setPending ops).Inv :=
  ⟨hs.mem, hs.pc, hs.stack, hs.latch, hs.left⟩

/-- LOAD keeps the invariant, accepted or rejected. -/
theorem State.Inv.performLoad (hs : s.Inv) (rom : List Byte) : (s.performLoad rom).Inv := by
  by_cases h : rom.length ≤ 3583
  · rw [s.performLoad_of_fits h]
    exact (hs.storeBytes (by omega)).setReply _
  · rw [s.performLoad_of_large (by omega)]
    exact hs.setReply _

/-- Every operation of the host keeps the invariant. -/
theorem State.Inv.perform (hs : s.Inv) (op : HostOp) : (s.perform op).Inv := by
  obtain ⟨seed, _, e⟩ | ⟨f, _, e⟩ | ⟨rom, _, _, e⟩ | ⟨keys, _, hf, e⟩ := s.perform_cases op
  · have hr := State.Inv.reset
    rw [e]
    exact ⟨hr.mem, hr.pc, hr.stack, hr.latch, hr.left⟩
  · rw [e]
    exact hs.setReply _
  · rw [e]
    exact hs.performLoad rom
  · have hb := hs.setPhase_cycles hf (Nat.le_refl _)
    rw [e]
    exact ⟨hb.mem, hb.pc, hb.stack, hb.latch, hb.left⟩

/-- The host's turn keeps the invariant. -/
theorem hostTurn_keeps_inv {t : State} (hs : s.Inv) (h : hostTurn s = .next t) : t.Inv := by
  obtain ⟨op, rest, _, e⟩ | ⟨f, _, _, e⟩ | ⟨_, _, e⟩ := hostTurn_cases s
  · cases e.symm.trans h
    exact (hs.setPending rest).perform op
  · cases e.symm.trans h
  · cases e.symm.trans h
    exact hs

/-- The end of a frame keeps the invariant. -/
theorem State.Inv.endFrame (hs : s.Inv) : s.endFrame.Inv :=
  ⟨hs.mem, hs.pc, hs.stack, fun _ => rfl, fun _ h => nomatch h⟩

end

/-- Settles O24: a step is a cycle, the end of a frame or the host's turn, and each keeps the invariant. -/
theorem stepKeepsTheInvariant : Obligations.StepKeepsTheInvariant := by
  intro s t hs h
  obtain ⟨left, hf, hp, e⟩ | ⟨_, _, e⟩ | ⟨_, e⟩ := step_cases s
  · have hleft : left + 1 ≤ Config.cyclesPerFrame := hs.left _ hp
    exact cycle_keeps_inv (hs.setPhase_cycles hf (by omega)) (e.symm.trans h)
  · cases e.symm.trans h
    exact hs.endFrame
  · exact hostTurn_keeps_inv hs (e.symm.trans h)

/-- Settles O23. -/
theorem resetHoldsTheInvariant : Obligations.ResetHoldsTheInvariant := State.Inv.reset

/-! ### What each form writes -/

/-- Settles O25: each effect changes the parts of its updates, which its form may write. -/
theorem formsWriteOnlyTheirParts : Obligations.FormsWriteOnlyTheirParts := by
  intro i s t h
  cases Effect.of_exec h with
  | raise f => exact .inr ⟨f, rfl, keepsAllBut_raise s f⟩
  | regs v hp => exact .inl ((keepsAllBut_setRegs s v).mono (by simp [hp]))
  | draw v hp hr => exact .inl (((keepsAllBut_draw s).trans (keepsAllBut_setRegs _ v)).mono (by simp [hp, hr]))
  | display d hd => exact .inl ((keepsAllBut_setDisp s d).mono (by simp [hd]))
  | sprite d v hd hp =>
    exact .inl (((keepsAllBut_setDisp s d).trans (keepsAllBut_setRegs _ v)).mono (by simp [hd, hp]))
  | jump w hp => exact .inl ((keepsAllBut_setPc s w).mono (by simp [hp]))
  | call _ w hp hs =>
    exact .inl (((keepsAllBut_setStack s _ _).trans (keepsAllBut_setPc _ w)).mono (by simp [hp, hs]))
  | ret _ hp hs =>
    exact .inl (((keepsAllBut_setStack s _ _).trans (keepsAllBut_setPc _ _)).mono (by simp [hp, hs]))
  | index w hp => exact .inl ((keepsAllBut_setI s w).mono (by simp [hp]))
  | delay b hp => exact .inl ((keepsAllBut_setDt s b).mono (by simp [hp]))
  | sound b hp => exact .inl ((keepsAllBut_setSt s b).mono (by simp [hp]))
  | memory a bs hp => exact .inl ((keepsAllBut_storeBytes s a bs).mono (by simp [hp]))

/-- Settles O26: the effects that write registers keep all that the form does not write, the others keep them all. -/
theorem registersWrittenOnlyByTheirForms : Obligations.RegistersWrittenOnlyByTheirForms := by
  intro i s t j h hchanged
  by_contra hj
  cases Effect.of_exec h with
  | regs v _ hv | draw v _ _ hv | sprite d v _ _ hv => exact hchanged (hv j hj)
  | raise | display | jump | call | ret | index | delay | sound | memory => exact hchanged rfl

/-! ### What no instruction reads -/

/-- The state with `ST` and the place in the supply of draws changed: the two parts that an instruction other than
LD ST,Vx and RND neither reads nor writes (R29, R37). -/
def State.mapStRng (g : Byte → Byte) (r : Nat → Nat) (s : State) : State := { s with st := g s.st, rng := r s.rng }

section
variable {s : State} (g : Byte → Byte) (r : Nat → Nat)

/-- A pop goes the same way after the change. -/
theorem State.pop_mapStRng :
    (s.mapStRng g r).pop = s.pop.map fun wt => (wt.1, wt.2.mapStRng g r) := by
  obtain ⟨h, e⟩ | ⟨h, e⟩ := s.pop_cases
  · rw [e]
    exact dif_neg h
  · rw [e]
    exact dif_pos (congrArg Fin.val h)

/-- A push goes the same way after the change. -/
theorem State.push_mapStRng (w : Word) :
    (s.mapStRng g r).push w = (s.push w).map (State.mapStRng g r) := by
  obtain ⟨h, e⟩ | ⟨h, e⟩ := s.push_cases w
  · rw [e]
    exact dif_pos h
  · rw [e]
    exact dif_neg (Nat.not_lt_of_le (Nat.le_of_eq (congrArg Fin.val h).symm))

/-- A skip goes the same way after the change. -/
theorem State.skipIf_mapStRng (c : Bool) : (s.mapStRng g r).skipIf c = (s.skipIf c).mapStRng g r := by
  cases c <;> rfl

/-- A guarded access goes the same way after the change. -/
theorem State.inRange_mapStRng {k t : State} {n : Nat} (h : s.inRange n k = .next t) :
    (s.mapStRng g r).inRange n (k.mapStRng g r) = .next (t.mapStRng g r) := by
  have hfault : (s.mapStRng g r).rangeFault n = s.rangeFault n := rfl
  cases e : s.rangeFault n with
  | none | some f =>
    simp only [State.inRange, hfault, e] at h ⊢
    cases h
    rfl

/-- `ST` and the generator are read and written only by LD ST,Vx and RND. -/
theorem exec_mapStRng {i : Instr} {t : State} (hst : ∀ x, i ≠ .ldStVx x) (hrnd : ∀ x kk, i ≠ .rnd x kk)
    (h : exec i s = .next t) : exec i (s.mapStRng g r) = .next (t.mapStRng g r) := by
  cases i with
  | ldStVx x => exact absurd rfl (hst x)
  | rnd x kk => exact absurd rfl (hrnd x kk)
  | drw x y n | ldB x | storeRegs x | loadRegs x => exact State.inRange_mapStRng g r h
  | ret =>
    cases e : s.pop with
    | some wt =>
      cases (exec_ret_of_pop e).symm.trans h
      exact exec_ret_of_pop (t := wt.2.mapStRng g r) (by rw [State.pop_mapStRng, e]; rfl)
    | none =>
      cases (exec_ret_of_empty e).symm.trans h
      exact exec_ret_of_empty (by rw [State.pop_mapStRng, e]; rfl)
  | call nnn =>
    have hpush : (s.mapStRng g r).push (s.mapStRng g r).pc = (s.push s.pc).map (State.mapStRng g r) :=
      State.push_mapStRng g r s.pc
    cases e : s.push s.pc with
    | some u =>
      cases (exec_call_of_push e).symm.trans h
      exact exec_call_of_push (by rw [hpush, e]; rfl)
    | none =>
      cases (exec_call_of_full e).symm.trans h
      exact exec_call_of_full (by rw [hpush, e]; rfl)
  | seImm x kk | sneImm x kk | seReg x y | sneReg x y =>
    cases h
    exact congrArg Host.Outcome.next (State.skipIf_mapStRng g r _)
  | skp x =>
    cases e : s.keyHeld (s.reg x) with
    | some held =>
      cases (exec_skp_of_key e).symm.trans h
      rw [← State.skipIf_mapStRng]
      exact exec_skp_of_key e
    | none =>
      cases (exec_skp_of_noKey e).symm.trans h
      exact exec_skp_of_noKey e
  | sknp x =>
    cases e : s.keyHeld (s.reg x) with
    | some held =>
      cases (exec_sknp_of_key e).symm.trans h
      rw [← State.skipIf_mapStRng]
      exact exec_sknp_of_key e
    | none =>
      cases (exec_sknp_of_noKey e).symm.trans h
      exact exec_sknp_of_noKey e
  | ldVxK x =>
    cases e : s.lowestKey with
    | some j =>
      cases (exec_ldVxK_of_held e).symm.trans h
      exact exec_ldVxK_of_held e
    | none =>
      cases (exec_ldVxK_of_none e).symm.trans h
      exact exec_ldVxK_of_none e
  | cls | jp nnn | jpV0 nnn | ldImm x kk | ldReg x y | addImm x kk | orReg x y | andReg x y | xorReg x y
  | addReg x y | subReg x y | shr x y | subn x y | shl x y | ldI nnn | addI x | ldF x | ldVxDt x | ldDtVx x =>
    cases h
    rfl

end

/-- Settles O55: LD ST,Vx overwrites `ST` unread, RND does not read it, and the other forms neither. -/
theorem soundTimerIsReadByNoInstruction : Obligations.SoundTimerIsReadByNoInstruction := by
  intro i s t b h
  constructor
  · intro hst
    by_cases hrnd : ∃ x kk, i = .rnd x kk
    · obtain ⟨x, kk, rfl⟩ := hrnd
      cases h
      rfl
    · exact exec_mapStRng (fun _ => b) id hst (fun x kk e => hrnd ⟨x, kk, e⟩) h
  · rintro ⟨x, rfl⟩
    cases h
    rfl

/-- RND is the only form that may write the generator. -/
theorem rng_notMem_formParts {i : Instr} (hrnd : ∀ x kk, i ≠ .rnd x kk) : Part.rng ∉ formParts i := by
  cases i <;> simp_all [formParts]

/-- Settles O56: the generator is no part of what the other forms write, and LD ST,Vx does not read it either. -/
theorem onlyRndReadsTheGenerator : Obligations.OnlyRndReadsTheGenerator := by
  intro i s t k hrnd h
  constructor
  · obtain hkeep | ⟨f, _, hkeep⟩ := formsWriteOnlyTheirParts i s t h
    · exact hkeep .rng (rng_notMem_formParts hrnd)
    · exact hkeep .rng (by decide)
  · by_cases hst : ∃ x, i = .ldStVx x
    · obtain ⟨x, rfl⟩ := hst
      cases h
      rfl
    · exact exec_mapStRng id (fun _ => k) (fun x e => hst ⟨x, e⟩) hrnd h

/-! ### The state after RESET, and the first instruction -/

/-- Settles O22: nothing is listed in memory, so each address reads as unlisted, and the vectors hold one value. -/
theorem resetState : Obligations.ResetState :=
  ⟨rfl, fun _ => rfl, fun j => Vector.getElem_replicate j.isLt, rfl, rfl, rfl, rfl,
    fun j => Vector.getElem_replicate j.isLt, fun j => Vector.getElem_replicate j.isLt,
    fun r => Vector.getElem_replicate r.isLt, rfl, rfl⟩

/-- The state that LOAD of a ROM and the start of STEP_FRAME leave after RESET, the host asking for no more. -/
def State.started (rom : List Byte) (keys : Vector Bool 16) : State :=
  (((State.reset.setPending []).storeBytes 0x200 rom).setReply (some .loadOk)).beginFrame keys

/-- Two steps from reset lead there (R175, R176). -/
theorem run_to_started {rom : List Byte} (keys : Vector Bool 16) (h : rom.length ≤ 3583) :
    Host.Core.run Sys2Proof.core 2 (State.reset.setPending [.load rom, .stepFrame keys])
      = .next (State.started rom keys) := by
  have hload : step (State.reset.setPending [.load rom, .stepFrame keys])
      = .next (((State.reset.setPending [.stepFrame keys]).storeBytes 0x200 rom).setReply (some .loadOk)) :=
    congrArg Host.Outcome.next (State.performLoad_of_fits (State.reset.setPending [.stepFrame keys]) h)
  rw [run_of_step 1 hload]
  rfl

/-- The ROM stands from 0x200 on. -/
theorem State.started_byteAt {rom : List Byte} (keys : Vector Bool 16) (h : rom.length ≤ 3583) {k : Nat}
    (hk : k < rom.length) : (State.started rom keys).byteAt (0x200 + k) = rom.getD k 0 := by
  have hfits : 0x200 + rom.length ≤ Config.memSize := by simp only [Config.memSize]; omega
  refine (Memory.readByte_writeBytes Memory.wf_reset hfits (0x200 + k)).trans ?_
  rw [if_pos (by omega), Nat.add_sub_cancel_left]

/-- A step inside a frame whose word decodes is that instruction, run with one cycle fewer left and `PC` past it
(R170). -/
theorem step_of_decode {s : State} {left : Nat} {i : Instr} (hf : s.fault = none) (hp : s.phase = .cycles (left + 1))
    (hpc : s.pc.toNat ≤ 4094) (hi : decodeWord (s.byteAt s.pc.toNat ++ s.byteAt (s.pc.toNat + 1)) = some i) :
    step s = exec i ((s.setPhase (.cycles left)).setPc (s.pc + 2)) := by
  have hfetch : (s.setPhase (.cycles left)).fetch =
      .ok (s.byteAt s.pc.toNat ++ s.byteAt (s.pc.toNat + 1), (s.setPhase (.cycles left)).setPc (s.pc + 2)) :=
    if_pos (show s.pc.toNat + 2 ≤ 4096 by omega)
  simp only [step, advance, hf, hp, cycle, hfetch, hi]

/-- Settles O57: LOAD and STEP_FRAME lead to a frame at 0x200, where the first two bytes of the ROM stand. -/
theorem firstInstructionIsTheRomsFirstWord : Obligations.FirstInstructionIsTheRomsFirstWord := by
  intro rom hi lo keys hlen
  refine ⟨State.started (hi :: lo :: rom) keys, run_to_started keys hlen, rfl, rfl, rfl, fun i hdecode => ?_⟩
  have hhi : (State.started (hi :: lo :: rom) keys).byteAt 0x200 = hi :=
    State.started_byteAt keys hlen (k := 0) (by simp)
  have hlo : (State.started (hi :: lo :: rom) keys).byteAt 0x201 = lo :=
    State.started_byteAt keys hlen (k := 1) (by simp)
  have hword : decodeWord ((State.started (hi :: lo :: rom) keys).byteAt 0x200
      ++ (State.started (hi :: lo :: rom) keys).byteAt 0x201) = some i := by rw [hhi, hlo, hdecode]
  have hpc : (0x200 : Word).toNat ≤ 4094 := by decide
  exact ⟨_, step_of_decode (left := Config.extraCycles) rfl rfl hpc hword, rfl,
    ((keepsAllBut_setPhase _ _).trans (keepsAllBut_setPc _ _)).mono (by simp)⟩

end Sys2Proof.Machine
end

section
/-! Memory and the fetch (spec/20_memory.md): the two bytes an instruction is read from, the fetch inside and beyond
memory, the data access that leaves memory, and the store that the next fetch reads. -/

namespace Sys2Proof.Machine

/-! ### Reading one instruction -/

/-- Settles O5: a word of two bytes decodes or is rejected by name, and shorter strings reach the last branch. -/
theorem decodeReadsTwoBytesBigEndian : Obligations.DecodeReadsTwoBytesBigEndian := by
  refine ⟨fun hi lo rest i h => ?_, fun hi lo rest h => ?_, fun bs h => ?_⟩
  · rw [decode_cons_cons, wordOfBytes, h]
  · rw [decode_cons_cons, wordOfBytes, h]
  · match bs with
    | [] | [_] => rfl
    | _ :: _ :: rest => exact absurd h (by simp)

/-! ### The fetch -/

section
variable {s : State}

/-- The fetch where both bytes lie in memory (R52). -/
theorem State.fetch_of_le (h : s.pc.toNat ≤ 4094) :
    s.fetch = .ok (s.byteAt s.pc.toNat ++ s.byteAt (s.pc.toNat + 1), s.setPc (s.pc + 2)) := by
  obtain ⟨_, e⟩ | ⟨hpc, _⟩ | ⟨hpc, _⟩ := s.fetch_cases
  · exact e
  · omega
  · omega

/-- A fetch goes the same way wherever STEP_FRAME is. -/
theorem State.fetch_setPhase (p : Phase) :
    (s.setPhase p).fetch = s.fetch.map fun wt => (wt.1, wt.2.setPhase p) := by
  unfold State.fetch
  rw [apply_ite (Except.map _), apply_ite (Except.map _)]
  rfl

/-- A step inside a frame whose fetch faults raises that fault (R53, R171). -/
theorem step_of_fetch_error {left : Nat} {f : Fault} (hf : s.fault = none) (hp : s.phase = .cycles (left + 1))
    (h : s.fetch = .error f) : step s = .next (s.raise f) := by
  have hfetch : (s.setPhase (.cycles left)).fetch = .error f := by
    rw [State.fetch_setPhase, h]
    rfl
  simp only [step, advance, hf, hp, cycle, hfetch]
  rfl

end

/-- Settles O7. -/
theorem fetchReadsBigEndianWord : Obligations.FetchReadsBigEndianWord := fun s h =>
  ⟨s.setPc (s.pc + 2), State.fetch_of_le h, toNat_add_two (by omega), keepsAllBut_setPc s _⟩

/-- Settles O8: the fetch faults by one of two names, and the step raises what it faults with. -/
theorem fetchBeyondMemoryFaults : Obligations.FetchBeyondMemoryFaults := by
  intro s left hf hp hgt
  obtain ⟨hle, _⟩ | ⟨hpc, e⟩ | ⟨_, hne, e⟩ := s.fetch_cases
  · omega
  · have hw : s.pc = 4096 := BitVec.eq_of_toNat_eq hpc
    exact ⟨_, _, step_of_fetch_error hf hp e, rfl, fun _ => congrArg Fault.fetchFault hw, fun h => by omega,
      fun h => by omega, rfl, rfl, keepsAllBut_raise s _⟩
  · exact ⟨_, _, step_of_fetch_error hf hp e, rfl, fun h => absurd h hne,
      fun h => congrArg Fault.memRangeFault (by omega), fun h => congrArg Fault.memRangeFault (by omega),
      rfl, rfl, keepsAllBut_raise s _⟩

/-! ### Data accesses inside and outside memory (R56) -/

section
variable {s : State}

/-- A guarded access inside memory has its effect. -/
theorem State.inRange_of_le {n : Nat} {k : State} (h : s.dataBase + n ≤ 4096) : s.inRange n k = .next k := by
  obtain ⟨_, e⟩ | ⟨_, hgt, _⟩ := s.inRange_cases n k
  · exact e
  · exact absurd h (Nat.not_le_of_lt hgt)

/-- A guarded access that leaves memory only raises. -/
theorem State.inRange_of_gt {n : Nat} {k : State} (hn : n ≠ 0) (h : 4096 < s.dataBase + n) :
    s.inRange n k = .next (s.raise (.memRangeFault (max s.dataBase 4096))) := by
  obtain ⟨hz | hle, _⟩ | ⟨_, _, e⟩ := s.inRange_cases n k
  · exact absurd hz hn
  · exact absurd hle (Nat.not_le_of_lt h)
  · exact e

/-- An instruction that answers the raise of a fault does nothing else (R208). -/
theorem onlyRaises_of_exec {i : Instr} {f : Fault} (h : exec i s = .next (s.raise f)) : OnlyRaises i s f :=
  ⟨_, h, rfl, rfl, rfl, keepsAllBut_raise s f⟩

/-- LD [I],Vx inside memory (R144). -/
theorem exec_storeRegs_of_le {x : Reg} (h : s.dataBase + x.val ≤ 4095) :
    exec (.storeRegs x) s = .next (s.storeBytes s.dataBase (s.regsUpTo x)) :=
  State.inRange_of_le (show s.dataBase + (x.val + 1) ≤ 4096 by omega)

/-- LD B,Vx inside memory (R143). -/
theorem exec_ldB_of_le {x : Reg} (h : s.dataBase + 2 ≤ 4095) :
    exec (.ldB x) s = .next (s.storeBytes s.dataBase (decimalDigits (s.reg x))) :=
  State.inRange_of_le (show s.dataBase + 3 ≤ 4096 by omega)

end

/-- Settles O45: each of the four forms is a guarded access, to 3, `x + 1`, `x + 1` and `n` bytes. -/
theorem outOfRangeAccessFaults : Obligations.OutOfRangeAccessFaults := by
  refine fun x y n s => ⟨fun h => ?_, fun h => ?_, fun h => ?_, fun hn h => ?_⟩
  · exact onlyRaises_of_exec (State.inRange_of_gt (n := 3) (by decide) (by omega))
  · exact onlyRaises_of_exec (State.inRange_of_gt (n := x.val + 1) (by omega) (by omega))
  · exact onlyRaises_of_exec (State.inRange_of_gt (n := x.val + 1) (by omega) (by omega))
  · exact onlyRaises_of_exec (State.inRange_of_gt (n := n) (by omega) (by omega))

/-! ### A store and the next fetch (R63) -/

section
variable {s : State} {a : Nat} {bs : List Byte}

/-- The bytes stored are read back. -/
theorem State.byteAt_storeBytes_stored (hwf : Memory.wf s.mem = true) (hfits : a + bs.length ≤ 4096) {k : Nat}
    (hk : k < bs.length) : (s.storeBytes a bs).byteAt (a + k) = bs.getD k 0 := by
  refine (Memory.readByte_writeBytes hwf hfits (a + k)).trans ?_
  rw [if_pos (by omega), Nat.add_sub_cancel_left]

/-- A store keeps the bytes outside it. -/
theorem State.keepsBytesOutside_storeBytes (hwf : Memory.wf s.mem = true) (hfits : a + bs.length ≤ 4096) :
    KeepsBytesOutside a bs.length s (s.storeBytes a bs) := by
  intro k hk
  refine (Memory.readByte_writeBytes hwf hfits k).trans ?_
  exact if_neg (by omega)

/-- The fetch after a store reads, at each of its two addresses, the byte stored there or the one that stood there. -/
theorem State.fetch_storeBytes (hwf : Memory.wf s.mem = true) (hpc : s.pc.toNat ≤ 4094)
    (hfits : a + bs.length ≤ 4096) :
    ∃ (u : State) (hi lo : Byte), (s.storeBytes a bs).fetch = .ok (hi ++ lo, u)
      ∧ (∀ k < bs.length, s.pc.toNat = a + k → hi = bs.getD k 0)
      ∧ (∀ k < bs.length, s.pc.toNat + 1 = a + k → lo = bs.getD k 0)
      ∧ KeptUnlessStored s a bs.length hi lo
      ∧ u.pc.toNat = s.pc.toNat + 2 ∧ KeepsAllBut [.pc] (s.storeBytes a bs) u := by
  have stored {k : Nat} (hk : k < bs.length) {b : Nat} (hb : b = a + k) :
      (s.storeBytes a bs).byteAt b = bs.getD k 0 := hb ▸ State.byteAt_storeBytes_stored hwf hfits hk
  have kept := State.keepsBytesOutside_storeBytes hwf hfits
  exact ⟨_, _, _, State.fetch_of_le (s := s.storeBytes a bs) hpc, fun k hk hb => stored hk hb,
    fun k hk hb => stored hk hb, ⟨kept s.pc.toNat, kept (s.pc.toNat + 1)⟩,
    toNat_add_two (Nat.le_trans hpc (by decide)), keepsAllBut_setPc _ _⟩

end

/-- The three bytes LD B stores are the decimal digits, hundreds first (R143). -/
theorem toNat_decimalDigits_getD (b : Byte) {k : Nat} (hk : k < 3) :
    ((decimalDigits b).getD k 0).toNat = decimalDigit b k := by
  match k with
  | 0 =>
    have hhundreds : b.toNat / 100 < 10 := by have := b.isLt; omega
    simp [decimalDigits, decimalDigit, Nat.mod_eq_of_lt hhundreds]
  | 1 | 2 => simp [decimalDigits, decimalDigit]

/-- Settles O46: both forms store bytes at `I`, and the fetch after the store reads them. -/
theorem storeIsSeenByTheNextFetch : Obligations.StoreIsSeenByTheNextFetch := by
  refine fun x s hwf hpc => ⟨fun h => ?_, fun h => ?_⟩
  · have hlen := s.regsUpTo_length x
    obtain ⟨u, hi, lo, hfetch, hhi, hlo, hkept, hpc', hrest⟩ :=
      State.fetch_storeBytes (a := s.dataBase) (bs := s.regsUpTo x) hwf hpc (by omega)
    rw [hlen] at hhi hlo hkept
    exact ⟨_, u, hi, lo, exec_storeRegs_of_le h, hfetch,
      fun j hj hb => (hhi j (Nat.lt_succ_of_le hj) hb).trans (s.regsUpTo_getD x j hj),
      fun j hj hb => (hlo j (Nat.lt_succ_of_le hj) hb).trans (s.regsUpTo_getD x j hj), hkept, hpc', hrest⟩
  · obtain ⟨u, hi, lo, hfetch, hhi, hlo, hkept, hpc', hrest⟩ :=
      State.fetch_storeBytes (a := s.dataBase) (bs := decimalDigits (s.reg x)) hwf hpc
        (show s.dataBase + 3 ≤ 4096 by omega)
    exact ⟨_, u, hi, lo, exec_ldB_of_le h, hfetch,
      fun k hk hb => (congrArg BitVec.toNat (hhi k hk hb)).trans (toNat_decimalDigits_getD _ hk),
      fun k hk hb => (congrArg BitVec.toNat (hlo k hk hb)).trans (toNat_decimalDigits_getD _ hk),
      hkept, hpc', hrest⟩

end Sys2Proof.Machine
end

section
/-! The encoding (spec/30_encoding.md): a word as its fields, the bits each mask of R75 fixes, the opcode map as
disjoint rows each of which is undone by `encode`, and the words no row selects. -/

namespace Sys2Proof

/-! ### A word is its fields (R11, R72) -/

theorem packA_fields (op : Word) : packA (fieldFamily op) (fieldNnn op) = op := by
  rw [packA, fieldFamily, fieldNnn, BitVec.extractLsb'_append_extractLsb'_eq_extractLsb' (by decide)]
  exact BitVec.extractLsb'_eq_self

theorem packXK_fields (op : Word) : packXK (fieldFamily op) (fieldX op) (fieldKk op) = op := by
  rw [packXK, fieldX, nibbleOfReg_regOfNibble, fieldKk,
    BitVec.extractLsb'_append_extractLsb'_eq_extractLsb' (by decide)]
  exact packA_fields op

theorem packXY_fields (op : Word) :
    packXY (fieldFamily op) (fieldX op) (fieldY op) (op.extractLsb' 0 4) = op := by
  rw [packXY, fieldY, nibbleOfReg_regOfNibble, BitVec.extractLsb'_append_extractLsb'_eq_extractLsb' (by decide)]
  exact packXK_fields op

/-! ### The bits a mask fixes give the word back (R74) -/

/-- A mask that fixes every bit keeps the whole word. -/
theorem and_mask_exact (op : Word) : op &&& 0xFFFF#16 = op := BitVec.and_allOnes

section
variable {op : Word} {f : BitVec 4}

/-- The mask of a row with no fixed bits but the family tells the family. -/
theorem fieldFamily_of_mask (h : op &&& 0xF000 = packA f 0) : fieldFamily op = f := by
  rw [← packA_fields op, packA_family] at h
  simpa using congrArg fieldFamily h

theorem packA_of_mask (h : op &&& 0xF000 = packA f 0) : packA f (fieldNnn op) = op := by
  rw [← fieldFamily_of_mask h, packA_fields]

theorem packXK_of_mask (h : op &&& 0xF000 = packA f 0) : packXK f (fieldX op) (fieldKk op) = op := by
  rw [← fieldFamily_of_mask h, packXK_fields]

theorem packXY_of_mask (h : op &&& 0xF000 = packA f 0) :
    packXY f (fieldX op) (fieldY op) (BitVec.ofNat 4 (fieldN op)) = op := by
  rw [← fieldFamily_of_mask h, fieldN, BitVec.ofNat_toNat, BitVec.setWidth_eq, packXY_fields]

theorem packXY_of_mask_low {n : BitVec 4} (h : op &&& 0xF00F = packXY f 0 0 n) :
    packXY f (fieldX op) (fieldY op) n = op := by
  rw [← packXY_fields op, packXY_fixed] at h
  have hf : fieldFamily op = f := by simpa using congrArg fieldFamily h
  have hn : op.extractLsb' 0 4 = n := BitVec.eq_of_toNat_eq (by simpa using congrArg fieldN h)
  rw [← hf, ← hn, packXY_fields]

theorem packXK_of_mask_low {kk : Byte} (h : op &&& 0xF0FF = packXK f 0 kk) : packXK f (fieldX op) kk = op := by
  rw [← packXK_fields op, packXK_fixed] at h
  have hf : fieldFamily op = f := by simpa using congrArg fieldFamily h
  have hkk : fieldKk op = kk := by simpa using congrArg fieldKk h
  rw [← hf, ← hkk, packXK_fields]

end

/-! ### The opcode map -/

/-- The matches of the two rows differ on a bit that both masks fix. -/
def OpRow.Disjoint (r q : OpRow) : Prop := r.pattern &&& q.mask ≠ q.pattern &&& r.mask

/-- A word that one of two disjoint rows selects, the other does not. -/
theorem OpRow.Disjoint.not_selects {r q : OpRow} (h : r.Disjoint q) {op : Word} (hq : q.selects op = true) :
    r.selects op = false := by
  by_contra hr
  simp only [OpRow.selects, Bool.not_eq_false, beq_iff_eq] at hr hq
  exact h (by rw [← hr, ← hq, BitVec.and_assoc, BitVec.and_assoc, BitVec.and_comm r.mask])

/-- No two rows of R75 overlap (R74). -/
theorem opcodeRows_disjoint : opcodeRows.Pairwise OpRow.Disjoint := by
  unfold OpRow.Disjoint
  decide

/-- What decoding answers: the operands of a row that selects the word. -/
theorem exists_row_of_decodeWord {op : Word} {i : Instr} (h : decodeWord op = some i) :
    ∃ r ∈ opcodeRows, r.selects op = true ∧ r.build op = i := by
  obtain ⟨r, hfind, hbuild⟩ := Option.map_eq_some_iff.mp h
  exact ⟨r, List.mem_of_find?_eq_some hfind, List.find?_some (p := fun q : OpRow => q.selects op) hfind, hbuild⟩

/-- A word is rejected when no row selects it. -/
theorem decodeWord_eq_none_iff (op : Word) : decodeWord op = none ↔ ∀ r ∈ opcodeRows, r.selects op = false := by
  simp [decodeWord]

/-- The row that selects a word is the one it decodes by, wherever it stands in the map. -/
theorem decodeWord_of_row {k : Nat} {r : OpRow} {op : Word} (hk : opcodeRows[k]? = some r)
    (hsel : op &&& r.mask = r.pattern) : decodeWord op = some (r.build op) := by
  have hr : r.selects op = true := beq_iff_eq.mpr hsel
  obtain ⟨hlt, rfl⟩ := List.getElem?_eq_some_iff.mp hk
  have hfind : opcodeRows.find? (fun q => q.selects op) = some opcodeRows[k] := by
    refine List.find?_eq_some_iff_getElem.mpr ⟨hr, k, hlt, rfl, fun j hj => ?_⟩
    have hjk := List.pairwise_iff_getElem.mp opcodeRows_disjoint j k (by omega) hlt hj
    simp [hjk.not_selects hr]
  rw [decodeWord, hfind, Option.map_some]

/-! ### Decoding a packed word, a lemma per format of R72 -/

section
variable {k : Nat} {m : String} {f : BitVec 4}

theorem decodeWord_packA {c : BitVec 12 → Instr} (nnn : BitVec 12)
    (hk : opcodeRows[k]? = some ⟨m, 0xF000, packA f 0, fun op => c (fieldNnn op)⟩) :
    decodeWord (packA f nnn) = some (c nnn) := by
  simp [decodeWord_of_row hk (packA_family f nnn)]

theorem decodeWord_packXK {c : Reg → Byte → Instr} (x : Reg) (kk : Byte)
    (hk : opcodeRows[k]? = some ⟨m, 0xF000, packA f 0, fun op => c (fieldX op) (fieldKk op)⟩) :
    decodeWord (packXK f x kk) = some (c x kk) := by
  have hsel : packXK f x kk &&& 0xF000 = packA f 0 := packA_family f _
  simp [decodeWord_of_row hk hsel]

theorem decodeWord_packXY {c : Reg → Reg → Instr} (x y : Reg) {n : BitVec 4}
    (hk : opcodeRows[k]? = some ⟨m, 0xF00F, packXY f 0 0 n, fun op => c (fieldX op) (fieldY op)⟩) :
    decodeWord (packXY f x y n) = some (c x y) := by
  simp [decodeWord_of_row hk (packXY_fixed f x y n)]

theorem decodeWord_packX {c : Reg → Instr} (x : Reg) {kk : Byte}
    (hk : opcodeRows[k]? = some ⟨m, 0xF0FF, packXK f 0 kk, fun op => c (fieldX op)⟩) :
    decodeWord (packXK f x kk) = some (c x) := by
  simp [decodeWord_of_row hk (packXK_fixed f x kk)]

end

/-- Each form has its row, at place `k` of the opcode map, and its format's lemma decodes the packed word by it. -/
theorem decodeWord_encode {i : Instr} (hwf : i.WellFormed) : decodeWord (encode i) = some i := by
  cases i with
  | cls => exact decodeWord_of_row (k := 0) rfl rfl
  | ret => exact decodeWord_of_row (k := 1) rfl rfl
  | jp nnn => exact decodeWord_packA (k := 2) nnn rfl
  | call nnn => exact decodeWord_packA (k := 3) nnn rfl
  | ldI nnn => exact decodeWord_packA (k := 4) nnn rfl
  | jpV0 nnn => exact decodeWord_packA (k := 5) nnn rfl
  | seImm x kk => exact decodeWord_packXK (k := 6) x kk rfl
  | sneImm x kk => exact decodeWord_packXK (k := 7) x kk rfl
  | ldImm x kk => exact decodeWord_packXK (k := 8) x kk rfl
  | addImm x kk => exact decodeWord_packXK (k := 9) x kk rfl
  | rnd x kk => exact decodeWord_packXK (k := 10) x kk rfl
  | seReg x y => exact decodeWord_packXY (k := 11) x y rfl
  | sneReg x y => exact decodeWord_packXY (k := 12) x y rfl
  | ldReg x y => exact decodeWord_packXY (k := 13) x y rfl
  | orReg x y => exact decodeWord_packXY (k := 14) x y rfl
  | andReg x y => exact decodeWord_packXY (k := 15) x y rfl
  | xorReg x y => exact decodeWord_packXY (k := 16) x y rfl
  | addReg x y => exact decodeWord_packXY (k := 17) x y rfl
  | subReg x y => exact decodeWord_packXY (k := 18) x y rfl
  | shr x y => exact decodeWord_packXY (k := 19) x y rfl
  | subn x y => exact decodeWord_packXY (k := 20) x y rfl
  | shl x y => exact decodeWord_packXY (k := 21) x y rfl
  | drw x y n =>
    have hn : n % 16 = n := Nat.mod_eq_of_lt (of_decide_eq_true hwf)
    have hrow := decodeWord_of_row (k := 22) rfl (Laws.FixedBits.drw x y n)
    simpa [encode, hn] using hrow
  | skp x => exact decodeWord_packX (k := 23) x rfl
  | sknp x => exact decodeWord_packX (k := 24) x rfl
  | ldVxDt x => exact decodeWord_packX (k := 25) x rfl
  | ldDtVx x => exact decodeWord_packX (k := 26) x rfl
  | ldStVx x => exact decodeWord_packX (k := 27) x rfl
  | ldVxK x => exact decodeWord_packX (k := 28) x rfl
  | addI x => exact decodeWord_packX (k := 29) x rfl
  | ldF x => exact decodeWord_packX (k := 30) x rfl
  | ldB x => exact decodeWord_packX (k := 31) x rfl
  | storeRegs x => exact decodeWord_packX (k := 32) x rfl
  | loadRegs x => exact decodeWord_packX (k := 33) x rfl

/-- Settles O1. -/
theorem decodeOfEncodeIsTheInstruction : Obligations.DecodeOfEncodeIsTheInstruction :=
  fun _ hwf => decodeWord_encode hwf

/-! ### Encoding what a row reads, a lemma per list of rows -/

/-- Whatever word the row selects, the instruction it builds is well formed and encodes to that word. -/
def OpRow.Undone (r : OpRow) : Prop :=
  ∀ op : Word, op &&& r.mask = r.pattern → (r.build op).WellFormed ∧ encode (r.build op) = op

theorem rowsExact_undone : ∀ r ∈ rowsExact, r.Undone := by
  intro r hr op h
  fin_cases hr <;> exact ⟨rfl, h.symm.trans (and_mask_exact op)⟩

theorem rowsAddress_undone : ∀ r ∈ rowsAddress, r.Undone := by
  intro r hr op h
  fin_cases hr <;> exact ⟨rfl, packA_of_mask h⟩

theorem rowsImmediate_undone : ∀ r ∈ rowsImmediate, r.Undone := by
  intro r hr op h
  fin_cases hr <;> exact ⟨rfl, packXK_of_mask h⟩

theorem rowsRegister_undone : ∀ r ∈ rowsRegister, r.Undone := by
  intro r hr op h
  fin_cases hr
  -- DRW stands last, the one row with a count.
  on_goal 12 => exact ⟨decide_eq_true (op.extractLsb' 0 4).isLt, packXY_of_mask h⟩
  all_goals exact ⟨rfl, packXY_of_mask_low h⟩

theorem rowsOneRegister_undone : ∀ r ∈ rowsOneRegister, r.Undone := by
  intro r hr op h
  fin_cases hr <;> exact ⟨rfl, packXK_of_mask_low h⟩

/-- Every row of R75 is undone by `encode`. -/
theorem opcodeRows_undone {r : OpRow} (hr : r ∈ opcodeRows) : r.Undone := by
  simp only [opcodeRows, List.mem_append] at hr
  obtain (((hr | hr) | hr) | hr) | hr := hr
  · exact rowsExact_undone r hr
  · exact rowsAddress_undone r hr
  · exact rowsImmediate_undone r hr
  · exact rowsRegister_undone r hr
  · exact rowsOneRegister_undone r hr

/-- Settles O2: the row the word was decoded by is undone by `encode`. -/
theorem encodeOfDecodeIsTheWord : Obligations.EncodeOfDecodeIsTheWord := by
  intro op i h
  obtain ⟨r, hr, hsel, rfl⟩ := exists_row_of_decodeWord h
  exact opcodeRows_undone hr op (beq_iff_eq.mp hsel)

/-! ### The numbers of a word's fields -/

/-- Bits beside each other are digits. -/
theorem toNat_append_eq_add {n m : Nat} (a : BitVec n) (b : BitVec m) :
    (a ++ b).toNat = a.toNat * 2 ^ m + b.toNat := by
  rw [BitVec.toNat_append, ← Nat.shiftLeft_add_eq_or_of_lt b.isLt, Nat.shiftLeft_eq]

theorem toNat_packA (f : BitVec 4) (nnn : BitVec 12) : (packA f nnn).toNat = f.toNat * 4096 + nnn.toNat :=
  toNat_append_eq_add f nnn

theorem toNat_nibbleOfReg (r : Reg) : (nibbleOfReg r).toNat = r.val :=
  Nat.mod_eq_of_lt r.isLt

theorem toNat_packXK (f : BitVec 4) (x : Reg) (kk : Byte) :
    (packXK f x kk).toNat = f.toNat * 4096 + (x.val * 256 + kk.toNat) := by
  rw [packXK, ← packA, toNat_packA, toNat_append_eq_add, toNat_nibbleOfReg]
  rfl

theorem toNat_packXY (f : BitVec 4) (x y : Reg) (n : BitVec 4) :
    (packXY f x y n).toNat = f.toNat * 4096 + (x.val * 256 + (y.val * 16 + n.toNat)) := by
  rw [packXY, ← packXK, toNat_packXK, toNat_append_eq_add, toNat_nibbleOfReg]
  rfl

section
variable (op : Word)

theorem toNat_fieldFamily : (fieldFamily op).toNat = op.toNat / 4096 := by
  have h := toNat_packA (fieldFamily op) (fieldNnn op)
  rw [packA_fields] at h
  have := (fieldNnn op).isLt
  omega

/-! What each mask of R75 keeps: the family, and as many low bits as it fixes. -/

theorem toNat_mask_family : (op &&& 0xF000#16).toNat = op.toNat / 4096 * 4096 := by
  have h := packA_family (fieldFamily op) (fieldNnn op)
  rw [packA_fields] at h
  exact (congrArg BitVec.toNat h).trans (by simp [toNat_packA, toNat_fieldFamily])

theorem toNat_mask_nibble : (op &&& 0xF00F#16).toNat = op.toNat / 4096 * 4096 + op.toNat % 16 := by
  have h := packXY_fixed (fieldFamily op) (fieldX op) (fieldY op) (op.extractLsb' 0 4)
  rw [packXY_fields] at h
  exact (congrArg BitVec.toNat h).trans (by simp [toNat_packXY, toNat_fieldFamily])

theorem toNat_mask_byte : (op &&& 0xF0FF#16).toNat = op.toNat / 4096 * 4096 + op.toNat % 256 := by
  have h := packXK_fixed (fieldFamily op) (fieldX op) (fieldKk op)
  rw [packXK_fields] at h
  exact (congrArg BitVec.toNat h).trans (by simp [toNat_packXK, toNat_fieldFamily, fieldKk])

/-! ### The words no row selects (R76), a lemma per list of rows -/

theorem OpRow.selects_eq_false_iff (r : OpRow) :
    r.selects op = false ↔ (op &&& r.mask).toNat ≠ r.pattern.toNat := by
  rw [OpRow.selects, beq_eq_false_iff_ne, BitVec.toNat_ne_iff_ne]

theorem rowsExact_reject_iff : (∀ r ∈ rowsExact, r.selects op = false) ↔
    (op.toNat / 4096 = 0 → op ≠ 0x00E0 ∧ op ≠ 0x00EE) := by
  simp [rowsExact, OpRow.selects, and_mask_exact]
  bv_omega

theorem rowsAddress_reject_iff : (∀ r ∈ rowsAddress, r.selects op = false) ↔
    op.toNat / 4096 ∉ [1, 2, 10, 11] := by
  simp [rowsAddress, OpRow.selects_eq_false_iff, toNat_mask_family, -BitVec.toNat_and]
  omega

theorem rowsImmediate_reject_iff : (∀ r ∈ rowsImmediate, r.selects op = false) ↔
    op.toNat / 4096 ∉ [3, 4, 6, 7, 12] := by
  simp [rowsImmediate, OpRow.selects_eq_false_iff, toNat_mask_family, -BitVec.toNat_and]
  omega

theorem rowsRegister_reject_iff : (∀ r ∈ rowsRegister, r.selects op = false) ↔
    op.toNat / 4096 ≠ 13 ∧ (op.toNat / 4096 ∈ [5, 9] → op.toNat % 16 ≠ 0)
    ∧ (op.toNat / 4096 = 8 → op.toNat % 16 ∉ [0, 1, 2, 3, 4, 5, 6, 7, 14]) := by
  simp [rowsRegister, OpRow.selects_eq_false_iff, toNat_mask_family, toNat_mask_nibble, -BitVec.toNat_and]
  omega

theorem rowsOneRegister_reject_iff : (∀ r ∈ rowsOneRegister, r.selects op = false) ↔
    (op.toNat / 4096 = 14 → op.toNat % 256 ∉ [0x9E, 0xA1])
    ∧ (op.toNat / 4096 = 15 → op.toNat % 256 ∉ [0x07, 0x0A, 0x15, 0x18, 0x1E, 0x29, 0x33, 0x55, 0x65]) := by
  simp [rowsOneRegister, OpRow.selects_eq_false_iff, toNat_mask_byte, -BitVec.toNat_and]
  omega

end

/-- Settles O3: the five lists together leave of each of the 16 families exactly the words listed. -/
theorem illegalWordsAreExactlyTheListed : Obligations.IllegalWordsAreExactlyTheListed := by
  intro op family low4 low8
  have hfamily : family < 16 := Nat.div_lt_of_lt_mul op.isLt
  have hlow4 : low4 < 16 := Nat.mod_lt _ (by decide)
  simp only [decodeWord_eq_none_iff, opcodeRows, List.forall_mem_append, rowsExact_reject_iff,
    rowsAddress_reject_iff, rowsImmediate_reject_iff, rowsRegister_reject_iff, rowsOneRegister_reject_iff]
  rw [show op.toNat / 4096 = family from rfl, show op.toNat % 16 = low4 from rfl,
    show op.toNat % 256 = low8 from rfl]
  clear_value family low4 low8
  interval_cases family <;> simp
  -- Family 8 is left: the nibbles no row has are 8 to 13 and 15.
  omega

/-- Settles O4: 34 fixed words, each run through the opcode map. -/
theorem spelledWordsDecode : Obligations.SpelledWordsDecode := by
  unfold Obligations.SpelledWordsDecode
  decide

end Sys2Proof
end

section
/-! Control transfer (spec/40_control_flow.md): the jumps, CALL and RET inside and at the bounds of the stack, RET
undoing CALL, nested CALLs, and the compare forms. -/

namespace Sys2Proof.Machine

/-! ### Jumps (R101, R107) -/

/-- An address operand keeps its value as a word. -/
theorem toNat_setWidth_address (nnn : BitVec 12) : (nnn.setWidth 16).toNat = nnn.toNat :=
  BitVec.toNat_setWidth_of_le (by decide)

/-- Address plus `V[0]` stays below 65536, so the sum does not wrap (R107). -/
theorem toNat_address_add_byte (nnn : BitVec 12) (b : Byte) :
    (nnn.setWidth 16 + b.setWidth 16).toNat = nnn.toNat + b.toNat := by
  have hb : (b.setWidth 16).toNat = b.toNat := BitVec.toNat_setWidth_of_le (by decide)
  have := nnn.isLt
  have := b.isLt
  rw [BitVec.toNat_add_of_lt (by rw [toNat_setWidth_address, hb]; omega), toNat_setWidth_address, hb]

/-- Settles O34. -/
theorem jumpsSetPc : Obligations.JumpsSetPc := fun nnn s =>
  ⟨⟨_, rfl, toNat_setWidth_address nnn, keepsAllBut_setPc s _⟩,
    ⟨_, rfl, toNat_address_add_byte nnn (s.reg 0), keepsAllBut_setPc s _⟩⟩

/-! ### CALL and RET (R100, R102) -/

section
variable {s : State}

/-- CALL below the bound of the stack pushes `PC` and jumps. -/
theorem exec_call_of_lt (nnn : BitVec 12) (h : s.sp.val < 16) :
    exec (.call nnn) s = .next
      ((s.setStack ⟨s.sp.val + 1, by omega⟩ (s.stack.set s.sp.val s.pc h)).setPc (nnn.setWidth 16)) := by
  obtain ⟨_, e⟩ | ⟨hfull, _⟩ := s.push_cases s.pc
  · exact exec_call_of_push e
  · exact absurd h (by simp [hfull])

/-- RET with an entry on the stack takes the top one to `PC`. -/
theorem exec_ret_of_ne_zero (h : s.sp.val ≠ 0) :
    exec .ret s = .next
      ((s.setStack ⟨s.sp.val - 1, by omega⟩ s.stack).setPc (s.stack[s.sp.val - 1]'(by omega))) := by
  obtain ⟨_, e⟩ | ⟨hempty, _⟩ := s.pop_cases
  · exact exec_ret_of_pop e
  · exact absurd (congrArg Fin.val hempty) h

/-- CALL on a full stack only raises. -/
theorem onlyRaises_call_of_full (nnn : BitVec 12) (h : s.sp = 16) : OnlyRaises (.call nnn) s .stackOverflow := by
  obtain ⟨hlt, _⟩ | ⟨_, e⟩ := s.push_cases s.pc
  · exact absurd hlt (by simp [h])
  · exact onlyRaises_of_exec (exec_call_of_full e)

/-- RET on an empty stack only raises. -/
theorem onlyRaises_ret_of_empty (h : s.sp = 0) : OnlyRaises .ret s .stackUnderflow := by
  obtain ⟨hne, _⟩ | ⟨_, e⟩ := s.pop_cases
  · exact absurd (congrArg Fin.val h) hne
  · exact onlyRaises_of_exec (exec_ret_of_empty e)

end

/-- Changing the stack and `PC` leaves every other part. -/
theorem keepsAllBut_setStack_setPc (s : State) (sp : Fin 17) (e : Vector Word 16) (w : Word) :
    KeepsAllBut [.pc, .stack] s ((s.setStack sp e).setPc w) :=
  ((keepsAllBut_setStack s sp e).trans (keepsAllBut_setPc _ w)).mono (by simp)

/-- Settles O37. -/
theorem stackBoundsFault : Obligations.StackBoundsFault :=
  ⟨fun nnn _ h => onlyRaises_call_of_full nnn h, fun _ h => onlyRaises_ret_of_empty h⟩

/-- Settles O35: the entry written is the one at `SP`. -/
theorem callPushesTheNextAddress : Obligations.CallPushesTheNextAddress := by
  refine fun nnn s h => ⟨_, exec_call_of_lt nnn h, fun j hj => ?_, fun j hj => ?_, rfl,
    toNat_setWidth_address nnn, keepsAllBut_setStack_setPc s _ _ _⟩
  · obtain rfl : j = ⟨s.sp.val, h⟩ := Fin.ext hj
    exact Vector.getElem_set_self h
  · exact Vector.getElem_set_ne h j.isLt hj.symm

/-- Settles O36: the entry read is the one below `SP`. -/
theorem returnPopsThePc : Obligations.ReturnPopsThePc := by
  refine fun s h => ⟨_, exec_ret_of_ne_zero h, fun j hj => ?_, Nat.succ_pred h, rfl,
    keepsAllBut_setStack_setPc s _ _ _⟩
  have htop : j = ⟨s.sp.val - 1, by omega⟩ := Fin.ext (Nat.eq_sub_of_add_eq hj)
  rw [htop]
  rfl

/-- Settles O38: RET reads the entry that CALL wrote, and both count the same entry. -/
theorem returnUndoesCall : Obligations.ReturnUndoesCall := by
  intro nnn w s h
  obtain ⟨t, hcall, htop, _, hsp, _, hkeep⟩ := callPushesTheNextAddress nnn s h
  obtain ⟨u, hret, hpc, hsp', _, hkeep'⟩ := returnPopsThePc (t.setPc w) (by rw [State.setPc_sp]; omega)
  rw [State.setPc_sp, hsp] at hsp'
  refine ⟨t, u, hcall, hret, ?_, Fin.ext (Nat.succ.inj hsp'), ?_⟩
  · exact (hpc ⟨s.sp.val, h⟩ hsp.symm).trans (htop ⟨s.sp.val, h⟩ rfl)
  · exact (hkeep.trans ((keepsAllBut_setPc t w).trans hkeep')).mono (by simp)

/-! ### Nested CALLs -/

/-- As many CALLs in a row as the stack has room for succeed, each counted; they touch `PC` and the stack only. -/
theorem callsFrom_of_le (nnn : BitVec 12) {k : Nat} {s : State} (h : s.sp.val + k ≤ 16) :
    ∃ t, callsFrom nnn k s = some t ∧ t.sp.val = s.sp.val + k ∧ KeepsAllBut [.pc, .stack] s t := by
  induction k generalizing s with
  | zero => exact ⟨s, rfl, rfl, .refl _ s⟩
  | succ k ih =>
    obtain ⟨t, hcall, _, _, hsp, _, hkeep⟩ := callPushesTheNextAddress nnn s (by omega)
    obtain ⟨u, hcalls, hsp', hkeep'⟩ := ih (s := t) (by omega)
    refine ⟨u, ?_, by omega, (hkeep.trans hkeep').mono (by simp)⟩
    rw [callsFrom, hcall]
    exact hcalls

/-- Settles O39: from `SP = 0` there is room for 16 CALLs, which leave the stack full. -/
theorem sixteenCallsNest : Obligations.SixteenCallsNest := by
  intro nnn s k h0 hk
  have hs : s.sp.val = 0 := congrArg Fin.val h0
  obtain ⟨t, hcalls, hsp, hkeep⟩ := callsFrom_of_le nnn (k := k) (s := s) (by omega)
  refine ⟨t, hcalls, by omega, hkeep .fault (by decide), fun h16 => onlyRaises_call_of_full nnn (Fin.ext ?_)⟩
  show t.sp.val = 16
  omega

/-! ### Compares (R103 to R106) -/

/-- An instruction that answers a skip on a test skips exactly when what is tested holds. -/
theorem skipsWhen_of_exec {i : Instr} {s : State} {c : Bool} {cond : Prop} (h : exec i s = .next (s.skipIf c))
    (hc : c = true ↔ cond) : SkipsWhen i s cond := by
  rw [State.skipIf_eq] at h
  exact ⟨_, h, fun hcond => if_pos (hc.mpr hcond), fun hcond => if_neg fun e => hcond (hc.mp e),
    keepsAllBut_setPc s _⟩

/-- Settles O40: each form answers a skip on its own test. -/
theorem comparesSkip : Obligations.ComparesSkip := fun _ _ _ _ =>
  ⟨skipsWhen_of_exec rfl decide_eq_true_iff, skipsWhen_of_exec rfl decide_eq_true_iff,
    skipsWhen_of_exec rfl decide_eq_true_iff, skipsWhen_of_exec rfl decide_eq_true_iff⟩

end Sys2Proof.Machine
end

section
/-! Register load, arithmetic, logic, shift and random (spec/41_alu.md): what the forms without a flag write, the value
and the flag of the six flag forms, and the masked draw of RND. -/

namespace Sys2Proof.Machine

/-! ### The forms without a flag (R120 to R125) -/

/-- A register write leaves every part but the registers. -/
theorem keepsAllBut_setReg (s : State) (x : Reg) (b : Byte) : KeepsAllBut [.regs] s (s.setReg x b) :=
  keepsAllBut_setRegs s _

/-- An instruction that always answers a write of one register writes that register and nothing else. -/
theorem writesReg_of_exec {i : Instr} {x : Reg} {value : State → Byte}
    (h : ∀ s, exec i s = .next (s.setReg x (value s))) : WritesReg i x value := fun s =>
  ⟨_, h s, State.reg_setReg_self s x _, fun _ hj => State.reg_setReg_ne s _ hj, keepsAllBut_setReg s x _⟩

/-- Settles O27. -/
theorem loadsWriteTheirOperand : Obligations.LoadsWriteTheirOperand :=
  ⟨fun _ _ => writesReg_of_exec fun _ => rfl, fun _ _ => writesReg_of_exec fun _ => rfl⟩

/-- Byte addition is addition modulo 256. -/
theorem toNat_add_byte (a b : Byte) : (a + b).toNat = (a.toNat + b.toNat) % 256 := BitVec.toNat_add a b

/-- Settles O28: the byte sum is the byte of the sum modulo 256. -/
theorem addImmediateWrapsWithoutFlag : Obligations.AddImmediateWrapsWithoutFlag := by
  refine fun x kk => writesReg_of_exec fun s => ?_
  rw [← toNat_add_byte, BitVec.ofNat_toNat, BitVec.setWidth_eq]
  rfl

/-- Settles O29. -/
theorem logicFormsAreBitwiseWithoutFlag : Obligations.LogicFormsAreBitwiseWithoutFlag := fun _ _ =>
  ⟨writesReg_of_exec fun _ => rfl, writesReg_of_exec fun _ => rfl, writesReg_of_exec fun _ => rfl⟩

/-! ### The flag forms (R24, R126 to R130) -/

/-- A flag form leaves every part but the registers. -/
theorem keepsAllBut_setRegFlag (s : State) (x : Reg) (r : Byte) (c : Bool) :
    KeepsAllBut [.regs] s (s.setRegFlag x r c) :=
  keepsAllBut_setRegs s _

/-- An instruction that always answers a result and then a flag writes the number of the result, and the flag as its
condition holds. -/
theorem writesRegAndFlag_of_exec {i : Instr} {x : Reg} {value : State → Nat} {flag : State → Prop} {r : State → Byte}
    {c : State → Bool} (h : ∀ s, exec i s = .next (s.setRegFlag x (r s) (c s))) (hr : ∀ s, (r s).toNat = value s)
    (hc : ∀ s, c s = true ↔ flag s) : WritesRegAndFlag i x value flag := by
  intro s
  have hreg := State.reg_setRegFlag s x (r s) (c s)
  have hVF : (s.setRegFlag x (r s) (c s)).reg VF = flagByte (c s) := (hreg VF).trans (if_pos rfl)
  refine ⟨_, h s, fun hf => ?_, fun hf => ?_, fun hx => ?_, fun j hjx hjf => ?_, keepsAllBut_setRegFlag s x _ _⟩
  · rw [hVF, (hc s).mpr hf]
    rfl
  · rw [hVF, Bool.eq_false_iff.mpr (mt (hc s).mp hf)]
    rfl
  · rw [hreg, if_neg hx, if_pos rfl, hr]
  · rw [hreg, if_neg hjf, if_neg hjx]

section
variable (a b : Byte)

/-- The 8-bit sum falls below an operand exactly when it wrapped (R126). -/
theorem carryOut_add_iff : carryOut (a + b) b = true ↔ 256 ≤ a.toNat + b.toNat := by
  have := a.isLt
  have := b.isLt
  rw [carryOut, decide_eq_true_iff, toNat_add_byte]
  omega

/-- Byte subtraction is subtraction modulo 256. -/
theorem toNat_sub_byte : (a - b).toNat = (a.toNat + 256 - b.toNat) % 256 := by
  have := b.isLt
  rw [BitVec.toNat_sub]
  omega

theorem notBorrow_iff : notBorrow a b = true ↔ b.toNat ≤ a.toNat := decide_eq_true_iff

/-- Bit 0 is the parity (R128). -/
theorem shiftedOutRight_iff : shiftedOutRight a = true ↔ a.toNat % 2 = 1 := by
  rw [shiftedOutRight, BitVec.getLsbD, Nat.testBit_zero, decide_eq_true_iff]

theorem toNat_shiftLeft_one : (a <<< 1).toNat = 2 * a.toNat % 256 := by
  rw [BitVec.toNat_shiftLeft, Nat.shiftLeft_eq, Nat.mul_comm]

/-- Bit 7 is the top bit of a byte (R130). -/
theorem shiftedOutLeft_iff : shiftedOutLeft a = true ↔ 128 ≤ a.toNat := by
  have hmsb : shiftedOutLeft a = a.msb := (BitVec.msb_eq_getLsbD_last a).symm
  rw [hmsb, BitVec.msb_eq_decide, decide_eq_true_iff]

end

/-- Settles O30. -/
theorem addSetsCarry : Obligations.AddSetsCarry := fun _ _ =>
  writesRegAndFlag_of_exec (fun _ => rfl) (fun _ => toNat_add_byte _ _) fun _ => carryOut_add_iff _ _

/-- Settles O31. -/
theorem subtractSetsNotBorrow : Obligations.SubtractSetsNotBorrow := fun _ _ =>
  ⟨writesRegAndFlag_of_exec (fun _ => rfl) (fun _ => toNat_sub_byte _ _) fun _ => notBorrow_iff _ _,
    writesRegAndFlag_of_exec (fun _ => rfl) (fun _ => toNat_sub_byte _ _) fun _ => notBorrow_iff _ _⟩

/-- Settles O32: neither meaning reads the `y` field (R78). -/
theorem shiftsMoveVxByOne : Obligations.ShiftsMoveVxByOne := fun _ _ =>
  ⟨writesRegAndFlag_of_exec (fun _ => rfl) (fun _ => BitVec.toNat_ushiftRight _ 1) fun _ => shiftedOutRight_iff _,
    writesRegAndFlag_of_exec (fun _ => rfl) (fun _ => toNat_shiftLeft_one _) fun _ => shiftedOutLeft_iff _⟩

/-! ### The masked draw (R131) -/

/-- RND is one draw and then one register write. -/
theorem exec_rnd (x : Reg) (kk : Byte) (s : State) :
    exec (.rnd x kk) s = .next (s.draw.2.setReg x (Config.draw8 s.rng &&& kk)) := rfl

/-- Settles O33: the write after the draw leaves the generator, and the draw leaves the registers. -/
theorem randomByteUnderMask : Obligations.RandomByteUnderMask := by
  refine fun x kk s => ⟨_, exec_rnd x kk s, fun b => ?_, State.draw_rng s, fun j hj => ?_, ?_⟩
  · rw [State.reg_setReg_self, BitVec.getLsbD_and]
  · exact State.reg_setReg_ne s.draw.2 _ hj
  · exact ((keepsAllBut_draw s).trans (keepsAllBut_setReg _ x _)).mono (by simp)

end Sys2Proof.Machine
end

section
/-! The index register and memory (spec/42_index_memory.md): the three forms that set `I`, the two that store at `I`,
and the block load. -/

namespace Sys2Proof.Machine

/-! ### The forms that set `I` (R140 to R142) -/

/-- A byte keeps its value as a word. -/
theorem toNat_setWidth_byte (b : Byte) : (b.setWidth 16).toNat = b.toNat := BitVec.toNat_setWidth_of_le (by decide)

/-- A byte added to a word wraps at 65536 (R141). -/
theorem toNat_word_add_byte (w : Word) (b : Byte) :
    (w + b.setWidth 16).toNat = (w.toNat + b.toNat) % 65536 := by
  rw [BitVec.toNat_add, toNat_setWidth_byte]

/-- Five times a byte is at most 1275, so a glyph address does not wrap (R142). -/
theorem toNat_glyphAddress (b : Byte) : (glyphAddress b).toNat = 5 * b.toNat := by
  have hfits : b.toNat * 5 < 65536 := by have := b.isLt; omega
  calc (glyphAddress b).toNat
      _ = (b.setWidth 16).toNat * 5 % 65536 := BitVec.toNat_mul _ _
      _ = b.toNat * 5 := by rw [toNat_setWidth_byte, Nat.mod_eq_of_lt hfits]
      _ = 5 * b.toNat := Nat.mul_comm _ _

/-- Settles O41. -/
theorem indexFormsSetI : Obligations.IndexFormsSetI := fun nnn x s =>
  ⟨⟨_, rfl, toNat_setWidth_address nnn, keepsAllBut_setI s _⟩,
    ⟨_, rfl, toNat_word_add_byte s.i (s.reg x), keepsAllBut_setI s _⟩,
    ⟨_, rfl, toNat_glyphAddress (s.reg x), keepsAllBut_setI s _⟩⟩

/-! ### The forms that store at `I` (R143, R144) -/

/-- Settles O42: the bytes stored are the digits; the hundreds digit needs no remainder, a byte being below 1000. -/
theorem decimalDigitsAreStored : Obligations.DecimalDigitsAreStored := by
  intro x s hwf h
  have hfits : s.dataBase + (decimalDigits (s.reg x)).length ≤ 4096 := show s.dataBase + 3 ≤ 4096 by omega
  have stored {k : Nat} (hk : k < 3) :
      ((s.storeBytes s.dataBase (decimalDigits (s.reg x))).byteAt (s.dataBase + k)).toNat
        = decimalDigit (s.reg x) k := by
    rw [State.byteAt_storeBytes_stored hwf hfits hk, toNat_decimalDigits_getD _ hk]
  have hhundreds : decimalDigit (s.reg x) 0 = (s.reg x).toNat / 100 :=
    Nat.mod_eq_of_lt (by have := (s.reg x).isLt; omega)
  have hones : decimalDigit (s.reg x) 2 = (s.reg x).toNat % 10 := congrArg (· % 10) (Nat.div_one _)
  exact ⟨_, exec_ldB_of_le h, (stored (k := 0) (by decide)).trans hhundreds, stored (k := 1) (by decide),
    (stored (k := 2) (by decide)).trans hones, State.keepsBytesOutside_storeBytes hwf hfits,
    keepsAllBut_storeBytes s _ _⟩

/-- Settles O43: byte `j` of what is stored is `V[j]`. -/
theorem blockStoreWritesV0ToVx : Obligations.BlockStoreWritesV0ToVx := by
  intro x s hwf h
  have hlen := s.regsUpTo_length x
  have hfits : s.dataBase + (s.regsUpTo x).length ≤ 4096 := by omega
  refine ⟨_, exec_storeRegs_of_le h, fun j hj => ?_, ?_, keepsAllBut_storeBytes s _ _⟩
  · have hj' : j.val < (s.regsUpTo x).length := hlen ▸ Nat.lt_succ_of_le hj
    rw [State.byteAt_storeBytes_stored hwf hfits hj', s.regsUpTo_getD x j hj]
  · exact hlen ▸ State.keepsBytesOutside_storeBytes hwf hfits

/-! ### The block load (R145) -/

/-- LD Vx,[I] inside memory. -/
theorem exec_loadRegs_of_le {x : Reg} {s : State} (h : s.dataBase + x.val ≤ 4095) :
    exec (.loadRegs x) s = .next (s.setRegs (s.loadedRegs x)) :=
  State.inRange_of_le (show s.dataBase + (x.val + 1) ≤ 4096 by omega)

/-- Settles O44: the loaded register file holds the byte at `I + j` up to `V[x]` and the old register above it. -/
theorem blockLoadReadsV0ToVx : Obligations.BlockLoadReadsV0ToVx := fun x s h =>
  ⟨_, exec_loadRegs_of_le h, fun j hj => (s.loadedRegs_get x j).trans (if_pos hj),
    fun j hj => (s.loadedRegs_get x j).trans (if_neg (not_le_of_gt hj)), keepsAllBut_setRegs s _⟩

end Sys2Proof.Machine
end

section
/-! The display (spec/43_display.md): where a sprite byte and a sprite row land, and DRW against the pixels, from which
the second of two equal draws undoes the first. -/

namespace Sys2Proof.Machine

/-! ### Clearing the display (R150) -/

/-- A pixel of a dark row is off. -/
theorem State.pixel_of_row_zero {s : State} {r : Fin 32} (h : s.disp.get r = 0) (c : Fin 64) :
    s.pixel r c = false := by
  rw [State.pixel, h, BitVec.ofNat_eq_ofNat, BitVec.getLsbD_zero]

/-- Settles O47. -/
theorem clearDisplayTurnsEveryPixelOff : Obligations.ClearDisplayTurnsEveryPixelOff := fun s =>
  ⟨_, rfl, fun r c => State.pixel_of_row_zero (Vector.getElem_replicate r.isLt) c, keepsAllBut_setDisp s _⟩

/-! ### A placed sprite byte, bit by bit (R152) -/

/-- Settles O58: of the eight columns `(cx + j) mod 64` no two agree, so the pixel of column `(cx + j) mod 64` is bit
`7 - j`; a bit of the row in none of these columns is 0. -/
theorem spriteByteIsPlacedCircularly : Obligations.SpriteByteIsPlacedCircularly := by
  intro b x s
  generalize (s.reg x).toNat = cx
  refine ⟨rfl, fun j hj => ?_, fun i hi => ?_⟩
  · have hpixel := placedRow_pixel b cx ⟨(cx + j) % 64, Nat.mod_lt _ (by decide)⟩
    refine Bool.eq_iff_iff.mpr (hpixel.trans ⟨?_, fun hbit => ⟨j, hj, rfl, hbit⟩⟩)
    rintro ⟨k, hk, hcol, hbit⟩
    have hkj : k = j := by
      dsimp only at hcol
      omega
    exact hkj ▸ hbit
  · rcases Nat.lt_or_ge i 64 with hlt | hge
    · refine Bool.eq_false_iff.mpr fun hlit => ?_
      have hcol : 63 - (63 - i) = i := by omega
      obtain ⟨j, hj, hj64, -⟩ := (placedRow_pixel b cx ⟨63 - i, by omega⟩).mp (by rwa [hcol])
      exact hi j hj (by rw [hj64, hcol])
    · exact BitVec.getLsbD_of_ge _ i hge

/-! ### The rows of a draw (R153, R154) -/

/-- Byte `k` of the bytes read at `a` is the byte at `a + k`. -/
theorem Memory.readBytes_getElem (m : Memory) (a : Nat) {n k : Nat} (h : k < (Memory.readBytes m a n).length) :
    (Memory.readBytes m a n)[k] = Memory.readByte m (a + k) := by
  rw [← Memory.readBytes_getD m a (Memory.readBytes_length m a n ▸ h), List.getD_eq_getElem _ _ h]

section
variable {s : State} {n : Nat} (x y : Reg)

/-- A sprite row is exclusive-ored into its display row. -/
theorem State.drawn_get_targetRow (hn : n ≤ 32) {k : Nat} (hk : k < n) :
    (s.drawn x y n).1.get (targetRow (s.reg y).toNat k) =
      s.disp.get (targetRow (s.reg y).toNat k) ^^^ placedRow (s.byteAt (s.dataBase + k)) (s.reg x).toNat := by
  have hlen := Memory.readBytes_length s.mem s.dataBase n
  obtain ⟨hhit, -, -⟩ := composeRows_spec (s.reg x).toNat (s.reg y).toNat (Memory.readBytes s.mem s.dataBase n) 0
    (s.disp, false) (hlen.trans_le hn)
  have hrow := hhit k (hlen.symm ▸ hk)
  rwa [Nat.zero_add, Memory.readBytes_getElem] at hrow

/-- A display row on which no sprite row falls stays. -/
theorem State.drawn_get_of_ne (hn : n ≤ 32) {r : Fin 32} (h : ∀ k < n, r ≠ targetRow (s.reg y).toNat k) :
    (s.drawn x y n).1.get r = s.disp.get r := by
  have hlen := Memory.readBytes_length s.mem s.dataBase n
  obtain ⟨-, hmiss, -⟩ := composeRows_spec (s.reg x).toNat (s.reg y).toNat (Memory.readBytes s.mem s.dataBase n) 0
    (s.disp, false) (hlen.trans_le hn)
  exact hmiss r fun k hk => by
    rw [Nat.zero_add]
    exact h k (hlen ▸ hk)

/-- A draw collides when one of its sprite rows does. -/
theorem State.drawn_hit_iff (hn : n ≤ 32) :
    (s.drawn x y n).2 = true ↔ ∃ k < n, collides (s.disp.get (targetRow (s.reg y).toNat k))
      (placedRow (s.byteAt (s.dataBase + k)) (s.reg x).toNat) = true := by
  have hlen := Memory.readBytes_length s.mem s.dataBase n
  obtain ⟨-, -, hflag⟩ := composeRows_spec (s.reg x).toNat (s.reg y).toNat (Memory.readBytes s.mem s.dataBase n) 0
    (s.disp, false) (hlen.trans_le hn)
  refine hflag.trans ?_
  simp only [Bool.false_eq_true, false_or, hlen, Nat.zero_add, Memory.readBytes_getElem, exists_prop]
  rfl

end

/-- Settles O59: fewer than 16 sprite rows name different display rows, and 32 divides 256. -/
theorem spriteRowsFallOnTheirDisplayRows : Obligations.SpriteRowsFallOnTheirDisplayRows := by
  refine fun x y n s hn => ⟨fun r row hr hrow => ⟨?_, ?_⟩, fun r r' hr hr' h => by omega, fun row hrow => ?_⟩
  · have htarget : row = targetRow (s.reg y).toNat r := Fin.ext hrow
    exact htarget ▸ State.drawn_get_targetRow x y (by omega) hr
  · rw [toNat_add_byte, BitVec.toNat_ofNat, hrow]
    omega
  · exact State.drawn_get_of_ne x y (by omega) fun k hk e => hrow k hk (congrArg Fin.val e)

/-! ### The pixels of a draw (R151 to R155) -/

/-- A bit vector other than 0 has a 1 bit, counted from the top as columns and sprite bits are. -/
theorem ne_zero_iff_exists_getLsbD {m : Nat} (v : BitVec (m + 1)) :
    v ≠ 0 ↔ ∃ j < m + 1, v.getLsbD (m - j) = true := by
  constructor
  · intro h
    by_contra hnone
    refine h (BitVec.eq_of_getLsbD_eq fun i hi => ?_)
    rw [BitVec.ofNat_eq_ofNat, BitVec.getLsbD_zero]
    refine Bool.eq_false_iff.mpr fun hbit => hnone ⟨m - i, by omega, ?_⟩
    rwa [Nat.sub_sub_self (Nat.le_of_lt_succ hi)]
  · rintro ⟨j, -, hbit⟩ rfl
    rw [BitVec.ofNat_eq_ofNat, BitVec.getLsbD_zero] at hbit
    exact Bool.false_ne_true hbit

/-- A row collides when some column is lit both in it and in the mask (R154). -/
theorem collides_iff (row mask : RowBits) :
    collides row mask = true ↔
      ∃ c : Fin 64, row.getLsbD (63 - c.val) = true ∧ mask.getLsbD (63 - c.val) = true := by
  simp only [collides, decide_eq_true_iff, ne_zero_iff_exists_getLsbD (m := 63), BitVec.getLsbD_and, Bool.and_eq_true,
    Fin.exists_iff, exists_prop]

/-- A sprite pixel is a 1 bit of the mask of a sprite row that falls on the pixel's row. -/
theorem spritePixel_iff_placedRow {s : State} {cx cy n : Nat} {r : Fin 32} {c : Fin 64} :
    SpritePixel s cx cy n r c ↔ ∃ k < n, targetRow cy k = r
      ∧ (placedRow (s.byteAt (s.dataBase + k)) cx).getLsbD (63 - c.val) = true := by
  constructor
  · rintro ⟨k, j, hk, hj, hrow, hcol, hbit⟩
    exact ⟨k, hk, Fin.ext hrow, (placedRow_pixel _ cx c).mpr ⟨j, hj, hcol, hbit⟩⟩
  · rintro ⟨k, hk, hrow, hmask⟩
    obtain ⟨j, hj, hcol, hbit⟩ := (placedRow_pixel _ cx c).mp hmask
    exact ⟨k, j, hk, hj, congrArg Fin.val hrow, hcol, hbit⟩

/-- A lit pixel went off when a lit pixel changed. -/
theorem somePixelWentOff_iff {s t : State} :
    SomePixelWentOff s t ↔ ∃ (r : Fin 32) (c : Fin 64), s.pixel r c = true ∧ t.pixel r c ≠ s.pixel r c :=
  exists₂_congr fun _ _ => and_congr_right fun hlit => by rw [hlit, Ne, Bool.not_eq_true]

/-- The state after a DRW that raises nothing: the drawn display, then the flag (R155). -/
def State.afterDraw (s : State) (x y : Reg) (n : Nat) : State :=
  (s.setDisp (s.drawn x y n).1).setReg VF (flagByte (s.drawn x y n).2)

section
variable (s : State) (x y : Reg) {n : Nat}

/-- DRW with its sprite in memory, or without a sprite row (R56). -/
theorem exec_drw_of_le (h : n = 0 ∨ s.dataBase + n - 1 ≤ 4095) :
    exec (.drw x y n) s = .next (s.afterDraw x y n) := by
  obtain ⟨-, hnext⟩ | ⟨hne, hgt, -⟩ := s.inRange_cases n (s.afterDraw x y n)
  · exact hnext
  · have hle : s.i.toNat + n - 1 ≤ 4095 := h.resolve_left hne
    omega

theorem State.afterDraw_reg_VF : (s.afterDraw x y n).reg VF = flagByte (s.drawn x y n).2 :=
  State.reg_setReg_self _ VF _

theorem keepsRegsBut_afterDraw : KeepsRegsBut VF s (s.afterDraw x y n) := fun _ hj =>
  State.reg_setReg_ne (s.setDisp _) _ hj

theorem keepsAllBut_afterDraw : KeepsAllBut [.regs, .display] s (s.afterDraw x y n) :=
  ((keepsAllBut_setDisp s _).trans (keepsAllBut_setReg _ VF _)).mono (by simp)

/-- The pixels a draw changes are the sprite's. -/
theorem State.afterDraw_pixel_ne_iff (hn : n ≤ 32) (r : Fin 32) (c : Fin 64) :
    (s.afterDraw x y n).pixel r c ≠ s.pixel r c ↔ SpritePixel s (s.reg x).toNat (s.reg y).toNat n r c := by
  have hpixel : (s.afterDraw x y n).pixel r c = ((s.drawn x y n).1.get r).getLsbD (63 - c.val) := rfl
  rw [spritePixel_iff_placedRow, hpixel, State.pixel]
  constructor
  · intro hne
    by_cases hrow : ∃ k < n, targetRow (s.reg y).toNat k = r
    · obtain ⟨k, hk, rfl⟩ := hrow
      rw [State.drawn_get_targetRow x y hn hk, BitVec.getLsbD_xor] at hne
      exact ⟨k, hk, rfl, Bool.eq_true_of_not_eq_false fun hoff => hne (by rw [hoff, Bool.xor_false])⟩
    · refine absurd ?_ hne
      rw [State.drawn_get_of_ne x y hn fun k hk e => hrow ⟨k, hk, e.symm⟩]
  · rintro ⟨k, hk, rfl, hmask⟩
    rw [State.drawn_get_targetRow x y hn hk, BitVec.getLsbD_xor, hmask, Bool.xor_true]
    exact Bool.not_ne_self _

/-- A draw collides when some lit pixel went off. -/
theorem State.drawn_hit_iff_wentOff (hn : n ≤ 32) :
    (s.drawn x y n).2 = true ↔ SomePixelWentOff s (s.afterDraw x y n) := by
  simp only [State.drawn_hit_iff x y hn, collides_iff, somePixelWentOff_iff, s.afterDraw_pixel_ne_iff x y hn,
    spritePixel_iff_placedRow]
  constructor
  · rintro ⟨k, hk, c, hlit, hmask⟩
    exact ⟨_, c, hlit, k, hk, rfl, hmask⟩
  · rintro ⟨_, c, hlit, k, hk, rfl, hmask⟩
    exact ⟨k, hk, c, hlit, hmask⟩

end

/-- Settles O48: the display is drawn from the state before, and the flag lands in `VF` after it. -/
theorem drawTogglesTheSpritePixels : Obligations.DrawTogglesTheSpritePixels := by
  intro x y n s hn hmem
  have hn32 : n ≤ 32 := by omega
  have hflag := s.drawn_hit_iff_wentOff x y hn32
  refine ⟨_, exec_drw_of_le s x y hmem, s.afterDraw_pixel_ne_iff x y hn32, fun hoff => ?_, fun hoff => ?_,
    keepsRegsBut_afterDraw s x y, keepsAllBut_afterDraw s x y⟩
  · rw [State.afterDraw_reg_VF, hflag.mpr hoff]
    rfl
  · rw [State.afterDraw_reg_VF, Bool.eq_false_iff.mpr (mt hflag.mp hoff)]
    rfl

/-! ### Two equal draws (R154) -/

/-- The sprite's pixels depend on `I` and memory only. -/
theorem spritePixel_congr {s t : State} (hi : t.i = s.i) (hmem : ∀ a, t.byteAt a = s.byteAt a) {cx cy n : Nat}
    {r : Fin 32} {c : Fin 64} : SpritePixel t cx cy n r c ↔ SpritePixel s cx cy n r c := by
  simp only [SpritePixel, State.dataBase, hi, hmem]

/-- Displays with the same pixels are the same. -/
theorem State.disp_ext_pixel {s t : State} (h : ∀ r c, t.pixel r c = s.pixel r c) : t.disp = s.disp := by
  refine Vector.ext fun r hr => BitVec.eq_of_getLsbD_eq fun i hi => ?_
  have hcol : 63 - (63 - i) = i := by omega
  have hpixel := h ⟨r, hr⟩ ⟨63 - i, by omega⟩
  simpa only [State.pixel, Vector.get_eq_getElem, hcol] using hpixel

/-- A pixel that two draws change both or neither is as it was. -/
theorem pixel_restored : ∀ {before between after : Bool},
    (after ≠ between ↔ between ≠ before) → after = before := by decide

/-- A sprite has a pixel, wherever it is drawn, when one of its bytes has a 1 bit. -/
theorem exists_spritePixel_iff (s : State) (cx cy n : Nat) :
    (∃ r c, SpritePixel s cx cy n r c) ↔ ∃ k < n, s.byteAt (s.dataBase + k) ≠ 0 := by
  simp only [ne_zero_iff_exists_getLsbD (m := 7)]
  constructor
  · rintro ⟨r, c, k, j, hk, hj, -, -, hbit⟩
    exact ⟨k, hk, j, hj, hbit⟩
  · rintro ⟨k, hk, j, hj, hbit⟩
    exact ⟨targetRow cy k, ⟨(cx + j) % 64, Nat.mod_lt _ (by decide)⟩, k, j, hk, hj, rfl, rfl, hbit⟩

/-- Settles O49: the first draw leaves the coordinates, `I` and the sprite, so both draws change the same pixels
(O48); on a clear display the lit pixels of the second draw are the sprite's, and all of them go off. -/
theorem drawTwiceRestoresTheDisplay : Obligations.DrawTwiceRestoresTheDisplay := by
  intro x y n s hx hy hn hmem
  obtain ⟨t, hst, htoggle, -, -, hregs, hrest⟩ := drawTogglesTheSpritePixels x y n s hn hmem
  have hi : t.i = s.i := hrest .index (by decide)
  have hbytes : ∀ a, t.byteAt a = s.byteAt a := hrest .memory (by decide)
  obtain ⟨u, htu, htoggle', hset, hclear, -, -⟩ :=
    drawTogglesTheSpritePixels x y n t hn (by rwa [State.dataBase, hi])
  simp only [hregs x hx, hregs y hy, spritePixel_congr hi hbytes] at htoggle'
  have hback (r : Fin 32) (c : Fin 64) : u.pixel r c = s.pixel r c :=
    pixel_restored ((htoggle' r c).trans (htoggle r c).symm)
  refine ⟨t, u, hst, htu, State.disp_ext_pixel hback, fun hdark => ?_⟩
  have hoff (r : Fin 32) (c : Fin 64) : s.pixel r c = false := State.pixel_of_row_zero (hdark r) c
  have hwent : SomePixelWentOff t u ↔ ∃ k < n, s.byteAt (s.dataBase + k) ≠ 0 := by
    rw [← exists_spritePixel_iff s (s.reg x).toNat (s.reg y).toNat]
    refine exists₂_congr fun r c => ?_
    rw [← htoggle r c, hback, hoff, Ne, Bool.not_eq_false, and_iff_left rfl]
  exact ⟨fun hbyte => hset (hwent.mpr hbyte), fun hzero => hclear fun hsome =>
    have ⟨k, hk, hne⟩ := hwent.mp hsome
    hne (hzero k hk)⟩

end Sys2Proof.Machine
end

section
/-! Keypad and timers (spec/44_keypad_timers.md): the key skips inside and beyond the keypad, the key wait with and
without a held key, and the timer moves. -/

namespace Sys2Proof.Machine

/-! ### The lowest held key (R163) -/

section
variable {s : State}

/-- A held key with no lower one held is the lowest: of two such keys neither is below the other. -/
theorem State.lowestKey_of_held {j : Fin 16} (hj : s.key.get j = true)
    (hlow : ∀ k : Fin 16, k < j → s.key.get k = false) : s.lowestKey = some j := by
  cases e : s.lowestKey with
  | none => exact absurd hj (Bool.eq_false_iff.mp (s.lowestKey_none.mp e j))
  | some k =>
    obtain ⟨hk, hlow'⟩ := s.lowestKey_some e
    have hjk : ¬ j < k := fun h => Bool.eq_false_iff.mp (hlow' j h) hj
    have hkj : ¬ k < j := fun h => Bool.eq_false_iff.mp (hlow k h) hk
    rw [le_antisymm (not_lt.mp hjk) (not_lt.mp hkj)]

/-- LD Vx,K with no key held steps `PC` back. -/
theorem exec_ldVxK_of_noKey (x : Reg) (h : ∀ j : Fin 16, s.key.get j = false) :
    exec (.ldVxK x) s = .next (s.setPc (s.pc - 2)) :=
  exec_ldVxK_of_none (s.lowestKey_none.mpr h)

end

/-- A key number fits in a byte. -/
theorem toNat_byte_of_key (j : Fin 16) : (BitVec.ofNat 8 j.val).toNat = j.val :=
  Nat.mod_eq_of_lt (j.isLt.trans (by decide))

/-- Settles O52. -/
theorem keyWaitTakesTheLowestKey : Obligations.KeyWaitTakesTheLowestKey := by
  refine fun x s => ⟨fun j hj hlow => ?_, fun hnone => ?_⟩
  · refine ⟨_, exec_ldVxK_of_held (State.lowestKey_of_held hj hlow), ?_,
      fun _ hne => State.reg_setReg_ne s _ hne, keepsAllBut_setReg s x _⟩
    rw [State.reg_setReg_self, toNat_byte_of_key]
  · exact ⟨_, exec_ldVxK_of_noKey x hnone, rfl, keepsAllBut_setPc s _⟩

/-- Settles O53: the step back undoes the advance of the fetch. -/
theorem keyWaitRunsAgain : Obligations.KeyWaitRunsAgain := by
  intro s left x hf hp hpc hword hnone
  have hback : s.pc + 2 - 2 = s.pc := BitVec.add_sub_cancel s.pc 2
  calc step s
      _ = exec (.ldVxK x) ((s.setPhase (.cycles left)).setPc (s.pc + 2)) := step_of_decode hf hp hpc hword
      _ = .next ((s.setPhase (.cycles left)).setPc (s.pc + 2 - 2)) := exec_ldVxK_of_noKey x hnone
      _ = .next (s.setPhase (.cycles left)) := by rw [hback]; rfl

/-! ### The key skips (R160, R161) -/

section
variable {s : State} {b : Byte}

/-- The snapshot holds an entry for a byte that is a key number. -/
theorem State.keyHeld_of_key {k : Fin 16} (h : k.val = b.toNat) : s.keyHeld b = some (s.key.get k) := by
  obtain ⟨hlt, e⟩ | ⟨hgt, _⟩ := s.keyHeld_cases b
  · rwa [show k = ⟨b.toNat, hlt⟩ from Fin.ext h]
  · omega

/-- The snapshot holds no entry for a byte above 15. -/
theorem State.keyHeld_of_gt (h : 15 < b.toNat) : s.keyHeld b = none := by
  obtain ⟨hlt, _⟩ | ⟨_, e⟩ := s.keyHeld_cases b
  · omega
  · exact e

end

/-- Settles O50: SKP answers a skip on the entry of the snapshot, SKNP on its opposite. -/
theorem keySkipsFollowTheSnapshot : Obligations.KeySkipsFollowTheSnapshot := fun _ _ _ hk =>
  ⟨skipsWhen_of_exec (exec_skp_of_key (State.keyHeld_of_key hk)) Iff.rfl,
    skipsWhen_of_exec (exec_sknp_of_key (State.keyHeld_of_key hk)) (iff_of_eq (Bool.not_eq_true' _))⟩

/-- Settles O51 (D3). -/
theorem keyNumberAbove15Faults : Obligations.KeyNumberAbove15Faults := fun _ _ h =>
  ⟨onlyRaises_of_exec (exec_skp_of_noKey (State.keyHeld_of_gt h)),
    onlyRaises_of_exec (exec_sknp_of_noKey (State.keyHeld_of_gt h))⟩

/-! ### The timer moves (R162, R164, R165) -/

/-- Settles O54: each move is one write, of a register or of its timer. -/
theorem timerMovesAreDirect : Obligations.TimerMovesAreDirect := fun x =>
  ⟨writesReg_of_exec fun _ => rfl, fun s => ⟨_, rfl, rfl, keepsAllBut_setDt s (s.reg x)⟩,
    fun s => ⟨_, rfl, rfl, keepsAllBut_setSt s (s.reg x)⟩⟩

end Sys2Proof.Machine
end

section
/-! The frame driver and its outputs (spec/45_frame_driver_outputs.md): the cycle of a frame, the host's operations
RESET, LOAD and STEP_FRAME, a frame of `CYCLES_PER_FRAME` cycles, and the two output buffers. -/

namespace Sys2Proof.Machine

/-! ### One rule per update of the engine: the parts it leaves -/

theorem keepsAllBut_setPending (s : State) (ops : List HostOp) : KeepsAllBut [.pending] s (s.setPending ops) := by
  intro p hp
  cases p <;> simp_all [Part.kept]

theorem keepsAllBut_setReply (s : State) (r : Option Reply) : KeepsAllBut [.reply] s (s.setReply r) := by
  intro p hp
  cases p <;> simp_all [Part.kept]

theorem keepsAllBut_beginFrame (s : State) (keys : Vector Bool 16) :
    KeepsAllBut [.keys, .gate, .phase, .reply] s (s.beginFrame keys) := by
  intro p hp
  cases p <;> simp_all [Part.kept]

theorem keepsAllBut_endFrame (s : State) : KeepsAllBut [.delay, .sound, .phase, .reply] s s.endFrame := by
  intro p hp
  cases p <;> simp_all [Part.kept]

/-- RESET leaves the parts of the reset state but the generator's place and the host's list (R173). -/
theorem keepsAllBut_performReset (s : State) (seed : Nat) :
    KeepsAllBut [.rng, .pending] State.reset (s.performReset seed) := by
  intro p hp
  have hrefl : p.kept State.reset State.reset := KeepsAllBut.refl [] State.reset p List.not_mem_nil
  cases p with
  | rng | pending => exact absurd (by decide) hp
  | _ => exact hrefl

/-! ### Faults of an instruction (R171, R208) -/

/-- Settles O10: of the effects an instruction may have only the raise touches the latch. -/
theorem faultsArePrecise : Obligations.FaultsArePrecise := by
  intro i s t f hf h ht
  cases Effect.of_exec h with
  | raise g =>
    obtain rfl : g = f := Option.some.inj ht
    exact ⟨rfl, rfl, keepsAllBut_raise s g⟩
  | regs | draw | display | sprite | jump | call | ret | index | delay | sound | memory =>
    exact absurd (hf.symm.trans ht) nofun

/-! ### The cycle (R170) -/

section
variable {s : State} {left : Nat}

/-- A step inside a frame whose word decodes to nothing raises from the state past the word (R76, R204). -/
theorem step_of_illegal (hf : s.fault = none) (hp : s.phase = .cycles (left + 1)) (hpc : s.pc.toNat ≤ 4094)
    (h : decodeWord (s.byteAt s.pc.toNat ++ s.byteAt (s.pc.toNat + 1)) = none) :
    step s = .next ((s.setPc (s.pc + 2)).raise
      (.unsupportedOpcode (s.byteAt s.pc.toNat ++ s.byteAt (s.pc.toNat + 1)))) := by
  have hfetch : (s.setPhase (.cycles left)).fetch =
      .ok (s.byteAt s.pc.toNat ++ s.byteAt (s.pc.toNat + 1), (s.setPhase (.cycles left)).setPc (s.pc + 2)) :=
    State.fetch_of_le (s := s.setPhase _) hpc
  simp only [step, advance, hf, hp, cycle, hfetch, h]
  rfl

/-- What a step inside a frame can do: it raises, or runs one instruction with one cycle fewer left and `PC` past its
word (R170, R171). -/
theorem step_in_frame_cases (hf : s.fault = none) (hp : s.phase = .cycles (left + 1)) :
    (∃ u f, step s = .next (State.raise u f))
    ∨ ∃ i, step s = exec i ((s.setPhase (.cycles left)).setPc (s.pc + 2)) := by
  obtain ⟨hpc, _⟩ | ⟨_, e⟩ | ⟨_, _, e⟩ := s.fetch_cases
  · cases hd : decodeWord (s.byteAt s.pc.toNat ++ s.byteAt (s.pc.toNat + 1)) with
    | none => exact .inl ⟨_, _, step_of_illegal hf hp hpc hd⟩
    | some i => exact .inr ⟨i, step_of_decode hf hp hpc hd⟩
  · exact .inl ⟨_, _, step_of_fetch_error hf hp e⟩
  · exact .inl ⟨_, _, step_of_fetch_error hf hp e⟩

end

/-- Settles O6: the fetch reads a word that decodes, reads one that does not, or faults. -/
theorem stepRunsOneCycle : Obligations.StepRunsOneCycle := fun s _ hf hp =>
  ⟨fun _ hpc hi => step_of_decode hf hp hpc hi,
    fun hpc hnone => ⟨_, step_of_illegal hf hp hpc hnone, rfl, rfl, rfl, rfl,
      ((keepsAllBut_setPc s _).trans (keepsAllBut_raise _ _)).mono (by simp)⟩,
    fun f hfetch => ⟨_, step_of_fetch_error hf hp hfetch, rfl, rfl, rfl, keepsAllBut_raise s f⟩⟩

/-! ### The host's turn (R172) -/

/-- Between frames, or with a fault latched, a step performs the host's next operation. -/
theorem step_of_pending {s : State} {op : HostOp} {rest : List HostOp} (h : s.fault ≠ none ∨ s.phase = .between)
    (hpend : s.pending = op :: rest) : step s = .next ((s.setPending rest).perform op) := by
  obtain ⟨_, hf, hp, _⟩ | ⟨hf, hp, _⟩ | ⟨_, e⟩ := step_cases s
  · simp [hf, hp] at h
  · simp [hf, hp] at h
  · simp only [e, hostTurn, hpend]

/-- Settles O13. -/
theorem resetOperationClearsEverything : Obligations.ResetOperationClearsEverything := fun _ seed _ h hpend =>
  ⟨_, step_of_pending h hpend, rfl, rfl, keepsAllBut_performReset _ seed⟩

section
variable {s : State} {rest : List HostOp}

/-- With no fault latched LOAD is tried (R174, R175). -/
theorem step_of_load {rom : List Byte} (hf : s.fault = none) (hp : s.phase = .between)
    (hpend : s.pending = .load rom :: rest) : step s = .next ((s.setPending rest).performLoad rom) := by
  rw [step_of_pending (.inr hp) hpend]
  simp only [State.perform, State.setPending_fault, hf]

/-- With no fault latched STEP_FRAME begins a frame (R176). -/
theorem step_of_stepFrame {keys : Vector Bool 16} (hf : s.fault = none) (hp : s.phase = .between)
    (hpend : s.pending = .stepFrame keys :: rest) : step s = .next ((s.setPending rest).beginFrame keys) := by
  rw [step_of_pending (.inr hp) hpend]
  simp only [State.perform, State.setPending_fault, hf]

end

/-- Settles O14: a ROM of at most 3583 bytes fits from 0x200 on, and a longer one is rejected by its length. -/
theorem loadCopiesOrRejects : Obligations.LoadCopiesOrRejects := by
  intro s rom rest hwf hf hp hpend
  have hstep := step_of_load hf hp hpend
  have hpending := keepsAllBut_setPending s rest
  refine ⟨fun hlen => ?_, fun hlen => ?_⟩
  · have hfits : 0x200 + rom.length ≤ 4096 := by omega
    rw [State.performLoad_of_fits _ hlen] at hstep
    exact ⟨_, hstep, rfl, rfl, fun k hk => State.byteAt_storeBytes_stored (s := s) hwf hfits hk,
      State.keepsBytesOutside_storeBytes (s := s) hwf hfits,
      ((hpending.trans (keepsAllBut_storeBytes _ _ _)).trans (keepsAllBut_setReply _ _)).mono (by simp)⟩
  · rw [State.performLoad_of_large _ hlen] at hstep
    exact ⟨_, hstep, rfl, rfl, hpending.trans (keepsAllBut_setReply _ _)⟩

/-! ### The frame (R176 to R180) -/

/-- A byte other than 0 is a positive number. -/
theorem byte_ne_zero_iff (b : Byte) : b ≠ 0 ↔ 0 < b.toNat := by
  rw [Nat.pos_iff_ne_zero, Ne, Ne, BitVec.toNat_eq]
  rfl

/-- The gate of a frame is set exactly when `ST` is not 0 (R35). -/
theorem State.beginFrame_sndGate_iff (s : State) (keys : Vector Bool 16) :
    (s.beginFrame keys).sndGate = true ↔ 0 < s.st.toNat := by
  rw [State.beginFrame_sndGate, decide_eq_true_iff, byte_ne_zero_iff]

/-- Settles O15. -/
theorem frameStartLatchesKeysAndGate : Obligations.FrameStartLatchesKeysAndGate := fun s keys rest hf hp hpend =>
  ⟨_, step_of_stepFrame hf hp hpend, rfl, State.beginFrame_sndGate_iff _ keys, rfl, rfl, rfl,
    ((keepsAllBut_setPending s rest).trans (keepsAllBut_beginFrame _ keys)).mono (by simp)⟩

/-- The parts that instructions write when they do not fault. -/
def instrParts : List Part := [.regs, .index, .pc, .stack, .delay, .sound, .display, .memory, .rng]

theorem formParts_subset_instrParts (i : Instr) : formParts i ⊆ instrParts := by
  cases i <;> simp [formParts, instrParts]

/-- A cycle that does not fault counts itself and otherwise changes only what instructions write (R177). -/
theorem step_in_frame {s t : State} {left : Nat} (hf : s.fault = none) (hp : s.phase = .cycles (left + 1))
    (h : step s = .next t) (ht : t.fault = none) :
    t.phase = .cycles left ∧ KeepsAllBut (.phase :: instrParts) s t := by
  obtain ⟨u, f, e⟩ | ⟨i, e⟩ := step_in_frame_cases hf hp
  · cases e.symm.trans h
    cases ht
  · obtain hkeep | ⟨f, hfault, _⟩ := formsWriteOnlyTheirParts i _ t (e.symm.trans h)
    · have hinstr := hkeep.mono (formParts_subset_instrParts i)
      have hfetched := (keepsAllBut_setPhase s (.cycles left)).trans (keepsAllBut_setPc _ (s.pc + 2))
      exact ⟨hinstr .phase (by decide), (hfetched.trans hinstr).mono (by decide)⟩
    · cases ht.symm.trans hfault

/-- `n` cycles of a frame, none of which faults, leave `n` fewer and otherwise change only what instructions write. -/
theorem run_in_frame {s t : State} {left n : Nat} (hf : s.fault = none) (hp : s.phase = .cycles (left + n))
    (hnofault : ∀ m ≤ n, ∀ u : State, Host.Core.run Sys2Proof.core m s = .next u → u.fault = none)
    (h : Host.Core.run Sys2Proof.core n s = .next t) :
    t.phase = .cycles left ∧ KeepsAllBut (.phase :: instrParts) s t := by
  induction n generalizing s with
  | zero =>
    cases h
    exact ⟨hp, .refl _ _⟩
  | succ n ih =>
    obtain ⟨u, hstep, hrest⟩ := run_first_step h
    have hfu : u.fault = none := hnofault 1 (by omega) u (run_of_step 0 hstep)
    obtain ⟨hpu, hkeep⟩ := step_in_frame hf hp hstep hfu
    obtain ⟨hpt, hkeep'⟩ := ih hfu hpu
      (fun m hm w hw => hnofault (m + 1) (by omega) w ((run_of_step m hstep).trans hw)) hrest
    exact ⟨hpt, (hkeep.trans hkeep').mono (by simp)⟩

/-- Settles O16: the frame begins with all its cycles, and no instruction writes `KEY`, `SND_GATE`, the host's list or
the reply. -/
theorem frameRunsItsCycles : Obligations.FrameRunsItsCycles := by
  intro s keys rest hf hp hpend n t hn hnofault hrun
  have hstart := step_of_stepFrame hf hp hpend
  have hleft : Config.cyclesPerFrame = Config.cyclesPerFrame - n + n := (Nat.sub_add_cancel hn).symm
  obtain ⟨hpt, hkeep⟩ := run_in_frame (s := (s.setPending rest).beginFrame keys) hf (congrArg Phase.cycles hleft)
    (fun m hm u hu => hnofault m u hm ((run_of_step m hstart).trans hu)) ((run_of_step n hstart).symm.trans hrun)
  have hgate : t.sndGate = ((s.setPending rest).beginFrame keys).sndGate := hkeep .gate (by decide)
  exact ⟨hpt, hkeep .keys (by decide), hgate ▸ State.beginFrame_sndGate_iff _ keys, hkeep .pending (by decide),
    hkeep .reply (by decide)⟩

/-! ### The end of a frame (R179, R180, R217) -/

/-- With no cycle left a step ends the frame. -/
theorem step_of_frameEnd {s : State} (hf : s.fault = none) (hp : s.phase = .cycles 0) :
    step s = .next s.endFrame := by
  simp only [step, advance, hf, hp]

/-- A timer loses one and stops at 0. -/
theorem toNat_decay (b : Byte) : (decay b).toNat = b.toNat - 1 := by
  by_cases h : b = 0
  · rw [decay, if_pos h, h]
    rfl
  · have hpos : 1 ≤ b.toNat := (byte_ne_zero_iff b).mp h
    rw [decay, if_neg h, BitVec.toNat_sub_of_le hpos]
    rfl

/-- Settles O17. -/
theorem frameEndDecaysAndEmits : Obligations.FrameEndDecaysAndEmits := fun s hf hp =>
  ⟨_, step_of_frameEnd hf hp, toNat_decay s.dt, toNat_decay s.st, rfl, rfl, keepsAllBut_endFrame s⟩

/-! ### The outputs (R181 to R183) -/

/-- An entry of the pixel buffer is the colour of its pixel. -/
theorem State.pixelBuffer_get (s : State) (k : Fin 2048) :
    s.pixelBuffer.get k =
      if s.pixel ⟨k.val / 64, by omega⟩ ⟨k.val % 64, by omega⟩ then Config.colorOn else Config.colorOff := by
  rw [State.pixelBuffer, Vector.get_eq_getElem, Vector.getElem_ofFn]

/-- A sample of the audio block is the tone's or silence. -/
theorem State.audioBlock_get (s : State) (k : Fin (2 * Config.samplesPerFrame)) :
    s.audioBlock.get k = if s.sndGate then Config.toneSample k.val else 0 := by
  rw [State.audioBlock, Vector.get_eq_getElem, Vector.getElem_ofFn]

/-- Settles O18: an entry's number has the row as its quotient by 64 and the column as its remainder. -/
theorem pixelBufferIsRowMajor : Obligations.PixelBufferIsRowMajor := by
  intro s r c k hk
  have hrow : (⟨k.val / 64, by omega⟩ : Fin 32) = r := Fin.ext (by dsimp only; omega)
  have hcol : (⟨k.val % 64, by omega⟩ : Fin 64) = c := Fin.ext (by dsimp only; omega)
  rw [State.pixelBuffer_get, hrow, hcol, State.pixel]

/-- Settles O19. -/
theorem audioBlockFollowsTheGate : Obligations.AudioBlockFollowsTheGate := by
  refine fun s k => ⟨fun hgate => ?_, fun hgate => ?_⟩
  · rw [State.audioBlock_get, hgate, if_pos rfl]
  · rw [State.audioBlock_get, hgate, if_neg Bool.false_ne_true]

end Sys2Proof.Machine
end

section
/-! The faults (spec/60_exceptions.md): what a step can answer, which forms raise which fault, and the machine whose
host has nothing to run on it, faulted or idle. -/

namespace Sys2Proof.Machine

/-! ### No step is refused -/

/-- A cycle goes on to a next state: a failing fetch or decode raises, and every instruction answers one. -/
theorem cycle_answers (s : State) : ∃ t, cycle s = .next t := by
  obtain ⟨_, _, e⟩ | ⟨_, _, _, _, e⟩ | ⟨_, t, i, _, _, e⟩ := cycle_cases s
  · exact ⟨_, e⟩
  · exact ⟨_, e⟩
  · obtain ⟨u, hu, _⟩ := exec_answers i t
    exact ⟨u, e.trans hu⟩

/-- Settles O9: a cycle and the end of a frame go on, and so does the host's turn unless a fault is latched and nothing
is asked. -/
theorem stepStopsOnlyWhenFaulted : Obligations.StepStopsOnlyWhenFaulted := by
  intro s
  obtain ⟨left, _, _, e⟩ | ⟨_, _, e⟩ | ⟨_, e⟩ := step_cases s
  · obtain ⟨t, ht⟩ := cycle_answers (s.setPhase (.cycles left))
    exact .inl ⟨t, e.trans ht⟩
  · exact .inl ⟨_, e⟩
  · obtain ⟨_, _, _, e'⟩ | ⟨f, hnil, hf, e'⟩ | ⟨_, _, e'⟩ := hostTurn_cases s
    · exact .inl ⟨_, e.trans e'⟩
    · exact .inr ⟨f, e.trans e', hf, hnil⟩
    · exact .inl ⟨_, e.trans e'⟩

/-! ### Which forms raise which fault (R200, R206) -/

/-- A skip leaves the latch. -/
@[simp] theorem State.skipIf_fault (s : State) (c : Bool) : (s.skipIf c).fault = s.fault := by
  rw [State.skipIf_eq, State.setPc_fault]

section
variable {s t k : State} {f : Fault}

/-- An outcome has one next state, so the latch found in it is the latch of the state computed. -/
theorem latched_of_answer {o : Host.Outcome State Fault Refusal} (h : o = .next t) (ht : t.fault = some f)
    (e : o = .next k) : some f = k.fault := by
  cases e.symm.trans h
  exact ht.symm

/-- The fault latched is the one raised. -/
theorem eq_of_latched_raise {o : Host.Outcome State Fault Refusal} {g : Fault} (h : o = .next t)
    (ht : t.fault = some f) (e : o = .next (s.raise g)) : f = g :=
  Option.some.inj (latched_of_answer h ht e)

/-- A guarded access that latches a fault leaves memory, and the fault says where (R56). -/
theorem State.inRange_latched {n : Nat} (h : s.inRange n k = .next t) (ht : t.fault = some f) (hk : k.fault = none) :
    f = .memRangeFault (max s.dataBase 4096) ∧ n ≠ 0 ∧ 4096 < s.dataBase + n := by
  obtain ⟨_, e⟩ | ⟨hn, hgt, e⟩ := s.inRange_cases n k
  · exact absurd ((latched_of_answer h ht e).trans hk) nofun
  · exact ⟨eq_of_latched_raise h ht e, hn, hgt⟩

end

/-- Settles O11: RET and CALL raise at a bound of the stack, the key skips at a number that is no key, and the four
memory forms outside memory; the other forms leave the latch. -/
theorem eachFaultHasItsForms : Obligations.EachFaultHasItsForms := by
  intro i s t f hf h ht
  cases i with
  | ret =>
    obtain ⟨_, e⟩ | ⟨hempty, e⟩ := s.pop_cases
    · exact absurd ((latched_of_answer h ht (exec_ret_of_pop e)).trans hf) nofun
    · exact .inl ⟨eq_of_latched_raise h ht (exec_ret_of_empty e), rfl, hempty⟩
  | call nnn =>
    obtain ⟨_, e⟩ | ⟨hfull, e⟩ := s.push_cases s.pc
    · exact absurd ((latched_of_answer h ht (exec_call_of_push e)).trans hf) nofun
    · exact .inr (.inl ⟨eq_of_latched_raise h ht (exec_call_of_full e), ⟨nnn, rfl⟩, hfull⟩)
  | skp x =>
    obtain ⟨_, e⟩ | ⟨hgt, e⟩ := s.keyHeld_cases (s.reg x)
    · exact absurd ((latched_of_answer h ht (exec_skp_of_key e)).trans ((s.skipIf_fault _).trans hf)) nofun
    · exact .inr (.inr (.inl ⟨x, .inl rfl, eq_of_latched_raise h ht (exec_skp_of_noKey e), hgt⟩))
  | sknp x =>
    obtain ⟨_, e⟩ | ⟨hgt, e⟩ := s.keyHeld_cases (s.reg x)
    · exact absurd ((latched_of_answer h ht (exec_sknp_of_key e)).trans ((s.skipIf_fault _).trans hf)) nofun
    · exact .inr (.inr (.inl ⟨x, .inr rfl, eq_of_latched_raise h ht (exec_sknp_of_noKey e), hgt⟩))
  | ldB x =>
    obtain ⟨e, _, hgt⟩ := State.inRange_latched (n := 3) h ht hf
    exact .inr (.inr (.inr ⟨e, .inl ⟨x, rfl, by omega⟩⟩))
  | storeRegs x =>
    obtain ⟨e, _, hgt⟩ := State.inRange_latched (n := x.val + 1) h ht hf
    exact .inr (.inr (.inr ⟨e, .inr (.inl ⟨x, .inl rfl, by omega⟩)⟩))
  | loadRegs x =>
    obtain ⟨e, _, hgt⟩ := State.inRange_latched (n := x.val + 1) h ht hf
    exact .inr (.inr (.inr ⟨e, .inr (.inl ⟨x, .inr rfl, by omega⟩)⟩))
  | drw x y n =>
    obtain ⟨e, hn, hgt⟩ := State.inRange_latched (n := n) h ht hf
    exact .inr (.inr (.inr ⟨e, .inr (.inr ⟨x, y, n, rfl, by omega, by omega⟩)⟩))
  | ldVxK x =>
    cases e : s.lowestKey with
    | some j => exact absurd ((latched_of_answer h ht (exec_ldVxK_of_held e)).trans hf) nofun
    | none => exact absurd ((latched_of_answer h ht (exec_ldVxK_of_none e)).trans hf) nofun
  | seImm x kk | sneImm x kk | seReg x y | sneReg x y =>
    cases h
    exact absurd (ht.symm.trans ((s.skipIf_fault _).trans hf)) nofun
  | cls | jp nnn | jpV0 nnn | ldImm x kk | ldReg x y | addImm x kk | orReg x y | andReg x y | xorReg x y
  | addReg x y | subReg x y | shr x y | subn x y | shl x y | ldI nnn | addI x | ldF x | rnd x kk | ldVxDt x
  | ldDtVx x | ldStVx x =>
    cases h
    exact absurd (ht.symm.trans hf) nofun

/-! ### The host's turn, faulted and idle (R212, R222) -/

section
variable {s : State}

/-- With a fault latched and nothing asked the step answers the fault. -/
theorem step_of_faulted_idle {f : Fault} (hf : s.fault = some f) (hpend : s.pending = []) : step s = .fault f := by
  simp only [step, advance, hostTurn, hf, hpend]

/-- With a fault latched an operation other than RESET only answers it (R212). -/
theorem State.perform_of_faulted {f : Fault} {op : HostOp} (hf : s.fault = some f)
    (hop : ∀ seed, op ≠ .reset seed) : s.perform op = s.setReply (some (.failed f)) := by
  cases op with
  | reset seed => exact absurd rfl (hop seed)
  | load rom | stepFrame keys => simp only [State.perform, hf]

end

/-- Settles O12. -/
theorem hostOperationsWhileFaulted : Obligations.HostOperationsWhileFaulted := by
  refine fun s f hf => ⟨step_of_faulted_idle hf, fun op rest hpend hop => ⟨_, ?_, rfl, rfl,
    (keepsAllBut_setPending s rest).trans (keepsAllBut_setReply _ (some (.failed f)))⟩⟩
  have hlatched : s.fault ≠ none := by simp [hf]
  have hperform := State.perform_of_faulted (s := s.setPending rest) hf hop
  rw [step_of_pending (.inl hlatched) hpend, hperform]

/-- Settles O21: the host's turn with no fault and nothing asked. -/
theorem idleMachineHoldsItsState : Obligations.IdleMachineHoldsItsState := fun s hf hp hpend => by
  simp only [step, advance, hostTurn, hf, hp, hpend]

end Sys2Proof.Machine
end

section
/-! What stands still inside a frame (spec/70_reset_and_hazards.md R240, R241): which parts a cycle may change, read off
the instruction at `PC`. -/

namespace Sys2Proof.Machine

section
variable {s t : State} {i : Instr} {p : Part}

/-- A part that an instruction changes, other than those a raise writes, is one its form writes. -/
theorem mem_formParts_of_exec (h : exec i s = .next t) (hp : p ∉ [Part.fault, .phase, .reply])
    (hchanged : ¬ p.kept s t) : p ∈ formParts i := by
  by_contra hmem
  obtain hkeep | ⟨_, _, hkeep⟩ := formsWriteOnlyTheirParts i s t h
  · exact hchanged (hkeep p hmem)
  · exact hchanged (hkeep p hp)

/-- A part that a cycle changes, other than those its fetch, its count or a raise writes, is one that the form of the
instruction at `PC` writes (R170, R171). -/
theorem exists_form_of_step_in_frame {left : Nat} (hf : s.fault = none) (hphase : s.phase = .cycles (left + 1))
    (h : step s = .next t) (hp : p ∉ [Part.phase, .pc, .fault, .reply]) (hchanged : ¬ p.kept s t) :
    ∃ i, decodeWord (s.byteAt s.pc.toNat ++ s.byteAt (s.pc.toNat + 1)) = some i ∧ p ∈ formParts i := by
  have hraise (u : State) (f : Fault) (hu : KeepsAllBut [.pc] s u) (e : step s = .next (u.raise f)) : False := by
    cases e.symm.trans h
    exact hchanged ((hu.trans (keepsAllBut_raise u f)).mono (by decide) p hp)
  obtain ⟨hle, _⟩ | ⟨_, e⟩ | ⟨_, _, e⟩ := s.fetch_cases
  · cases hd : decodeWord (s.byteAt s.pc.toNat ++ s.byteAt (s.pc.toNat + 1)) with
    | none => exact (hraise _ _ (keepsAllBut_setPc s _) (step_of_illegal hf hphase hle hd)).elim
    | some i =>
      have hexec := (step_of_decode hf hphase hle hd).symm.trans h
      have hfetched := (keepsAllBut_setPhase s (.cycles left)).trans (keepsAllBut_setPc _ (s.pc + 2))
      exact ⟨i, rfl, mem_formParts_of_exec hexec (by simp_all)
        fun hkept => hchanged ((hfetched.mono (by decide) p hp).trans hkept)⟩
  · exact (hraise s _ (.refl _ s) (step_of_fetch_error hf hphase e)).elim
  · exact (hraise s _ (.refl _ s) (step_of_fetch_error hf hphase e)).elim

/-- Only LD DT,Vx writes the delay timer (R28). -/
theorem eq_ldDtVx_of_delay_mem (h : .delay ∈ formParts i) : ∃ x, i = .ldDtVx x := by
  cases i with
  | ldDtVx x => exact ⟨x, rfl⟩
  | _ => simp [formParts] at h

/-- Only LD ST,Vx writes the sound timer (R29). -/
theorem eq_ldStVx_of_sound_mem (h : .sound ∈ formParts i) : ∃ x, i = .ldStVx x := by
  cases i with
  | ldStVx x => exact ⟨x, rfl⟩
  | _ => simp [formParts] at h

end

/-- Settles O20: what a cycle changes its instruction's form writes; no form writes `KEY`, `SND_GATE` or the host's
list, and one form each writes `DT` and `ST`. -/
theorem keysAndTimersStandStillInAFrame : Obligations.KeysAndTimersStandStillInAFrame := by
  intro s t left hf hphase h
  have hkept (p : Part) (hp : p ∉ [Part.phase, .pc, .fault, .reply]) (hinstr : p ∉ instrParts) : p.kept s t := by
    by_contra hchanged
    obtain ⟨i, _, hmem⟩ := exists_form_of_step_in_frame hf hphase h hp hchanged
    exact hinstr (formParts_subset_instrParts i hmem)
  refine ⟨hkept .keys (by decide) (by decide), hkept .gate (by decide) (by decide),
    hkept .pending (by decide) (by decide), fun hdt => ?_, fun hst => ?_⟩
  · obtain ⟨i, hdecode, hmem⟩ := exists_form_of_step_in_frame (p := .delay) hf hphase h (by decide) hdt
    obtain ⟨x, rfl⟩ := eq_ldDtVx_of_delay_mem hmem
    exact ⟨x, hdecode⟩
  · obtain ⟨i, hdecode, hmem⟩ := exists_form_of_step_in_frame (p := .sound) hf hphase h (by decide) hst
    obtain ⟨x, rfl⟩ := eq_ldStVx_of_sound_mem hmem
    exact ⟨x, hdecode⟩

end Sys2Proof.Machine
end
